-- ==== Sys2Proof/Word.lean ====
section
/-! DEFINITION. The word types of CORE (spec R9, R20, R21): bytes, 16-bit words, 12-bit addresses of an
instruction, register numbers. -/
namespace Sys2Proof

/-- A memory byte, a general register, a timer (R21, R29, R30). -/
abbrev Byte := BitVec 8

/-- An instruction word, `I`, `PC`, a stack entry (R24, R25, R27, R90). -/
abbrev Word := BitVec 16

/-- The 12-bit address field `nnn` of an instruction (R11). -/
abbrev Addr := BitVec 12

/-- A 4-bit register selector: V0 to VF (R21). -/
abbrev Reg := Fin 16

/-- The register VF, the flag register (R22). -/
abbrev VF : Reg := 15

end Sys2Proof
end

