-- ==== Sys2Proof/Syntax.lean ====
section
/-! DEFINITION. The instructions of CORE, one constructor per row of spec/opcode_table.json, in the table's
order (R100). Operand fields are those of R11 and R92: registers `x`, `y`, immediate `kk`, address `nnn`, row
count `n`. -/
namespace Sys2Proof

inductive Instr where
  /-- 00E0 CLS -/
  | cls
  /-- 00EE RET -/
  | ret
  /-- 1nnn JP nnn -/
  | jp (nnn : Addr)
  /-- 2nnn CALL nnn -/
  | call (nnn : Addr)
  /-- 3xkk SE Vx, kk -/
  | seKk (x : Reg) (kk : Byte)
  /-- 4xkk SNE Vx, kk -/
  | sneKk (x : Reg) (kk : Byte)
  /-- 5xy0 SE Vx, Vy (the low nibble is not examined, R99) -/
  | seVy (x y : Reg)
  /-- 6xkk LD Vx, kk -/
  | ldKk (x : Reg) (kk : Byte)
  /-- 7xkk ADD Vx, kk -/
  | addKk (x : Reg) (kk : Byte)
  /-- 8xy0 LD Vx, Vy -/
  | ldVy (x y : Reg)
  /-- 8xy1 OR Vx, Vy -/
  | orVy (x y : Reg)
  /-- 8xy2 AND Vx, Vy -/
  | andVy (x y : Reg)
  /-- 8xy3 XOR Vx, Vy -/
  | xorVy (x y : Reg)
  /-- 8xy4 ADD Vx, Vy -/
  | addVy (x y : Reg)
  /-- 8xy5 SUB Vx, Vy -/
  | sub (x y : Reg)
  /-- 8xy6 SHR Vx (the field `y` is kept and ignored, R170) -/
  | shr (x y : Reg)
  /-- 8xy7 SUBN Vx, Vy -/
  | subn (x y : Reg)
  /-- 8xyE SHL Vx (the field `y` is kept and ignored, R172) -/
  | shl (x y : Reg)
  /-- 9xy0 SNE Vx, Vy (the low nibble is not examined, R99) -/
  | sneVy (x y : Reg)
  /-- Annn LD I, nnn -/
  | ldI (nnn : Addr)
  /-- Bnnn JP V0, nnn -/
  | jpV0 (nnn : Addr)
  /-- Cxkk RND Vx, kk -/
  | rnd (x : Reg) (kk : Byte)
  /-- Dxyn DRW Vx, Vy, n: `n` rows, 0 to 15 (WellFormed) -/
  | drw (x y : Reg) (n : Nat)
  /-- Ex9E SKP Vx -/
  | skp (x : Reg)
  /-- ExA1 SKNP Vx -/
  | sknp (x : Reg)
  /-- Fx07 LD Vx, DT -/
  | ldVxDt (x : Reg)
  /-- Fx0A LD Vx, K -/
  | ldVxK (x : Reg)
  /-- Fx15 LD DT, Vx -/
  | ldDtVx (x : Reg)
  /-- Fx18 LD ST, Vx -/
  | ldStVx (x : Reg)
  /-- Fx1E ADD I, Vx -/
  | addI (x : Reg)
  /-- Fx29 LD F, Vx -/
  | ldF (x : Reg)
  /-- Fx33 LD B, Vx -/
  | ldB (x : Reg)
  /-- Fx55 LD [I], Vx -/
  | ldMemVx (x : Reg)
  /-- Fx65 LD Vx, [I] -/
  | ldVxMem (x : Reg)
deriving DecidableEq, Repr

end Sys2Proof
end

