-- ==== Sys2Proof/Decode.lean ====
section
/-! DEFINITION. Decoding (R90 to R99, R104): total on any bytes, rejecting by name; then the encoder, and the
opcode map of R100. -/
namespace Sys2Proof

/-- Two consecutive bytes, the first one high, make an instruction word (R70, R90). -/
def wordOfBytes (b0 b1 : Byte) : Word := b0 ++ b1

/-- `w[15:8]`, the byte stored first (R70). -/
def highByte (w : Word) : Byte := w.extractLsb' 8 8

/-- `w[7:0]`, the byte stored second (R70). -/
def lowByte (w : Word) : Byte := w.extractLsb' 0 8

/-! ### The fields of a word (R11, R92) -/

/-- `op = w[15:12]`. -/
def opField (w : Word) : BitVec 4 := w.extractLsb' 12 4

/-- A register selector from its four bits. -/
def regOfBits (b : BitVec 4) : Reg := b.toFin

/-- The four bits of a register selector. -/
def bitsOfReg (r : Reg) : BitVec 4 := BitVec.ofFin r

/-- `x = w[11:8]`. -/
def xField (w : Word) : Reg := regOfBits (w.extractLsb' 8 4)

/-- `y = w[7:4]`. -/
def yField (w : Word) : Reg := regOfBits (w.extractLsb' 4 4)

/-- `w[3:0]` as a secondary code (R96). -/
def nibbleField (w : Word) : BitVec 4 := w.extractLsb' 0 4

/-- `n = w[3:0]` as a count. -/
def nField (w : Word) : Nat := (nibbleField w).toNat

/-- `kk = w[7:0]`. -/
def kkField (w : Word) : Byte := w.extractLsb' 0 8

/-- `nnn = w[11:0]`. -/
def nnnField (w : Word) : Addr := w.extractLsb' 0 12

/-! ### The decoder -/

/-- Why bytes are no instruction. -/
inductive Reject where
  /-- Fewer than two bytes: no instruction word (R90). -/
  | truncated
  /-- The word's secondary code is unrecognized (R104). -/
  | badOpcode (w : Word)
deriving DecidableEq, Repr

/-- Family 0: a switch on the low byte; `w[11:8]` is not examined (R95). -/
def decodeFamily0 (w : Word) : Except Reject Instr :=
  match kkField w with
  | 0xE0#8 => .ok .cls
  | 0xEE#8 => .ok .ret
  | _ => .error (.badOpcode w)

/-- Family 8: a switch on the low nibble (R96). -/
def decodeFamily8 (w : Word) : Except Reject Instr :=
  match nibbleField w with
  | 0x0#4 => .ok (.ldVy (xField w) (yField w))
  | 0x1#4 => .ok (.orVy (xField w) (yField w))
  | 0x2#4 => .ok (.andVy (xField w) (yField w))
  | 0x3#4 => .ok (.xorVy (xField w) (yField w))
  | 0x4#4 => .ok (.addVy (xField w) (yField w))
  | 0x5#4 => .ok (.sub (xField w) (yField w))
  | 0x6#4 => .ok (.shr (xField w) (yField w))
  | 0x7#4 => .ok (.subn (xField w) (yField w))
  | 0xE#4 => .ok (.shl (xField w) (yField w))
  | _ => .error (.badOpcode w)

/-- Family E: a switch on the low byte (R97). -/
def decodeFamilyE (w : Word) : Except Reject Instr :=
  match kkField w with
  | 0x9E#8 => .ok (.skp (xField w))
  | 0xA1#8 => .ok (.sknp (xField w))
  | _ => .error (.badOpcode w)

/-- Family F: a switch on the low byte (R98). -/
def decodeFamilyF (w : Word) : Except Reject Instr :=
  match kkField w with
  | 0x07#8 => .ok (.ldVxDt (xField w))
  | 0x0A#8 => .ok (.ldVxK (xField w))
  | 0x15#8 => .ok (.ldDtVx (xField w))
  | 0x18#8 => .ok (.ldStVx (xField w))
  | 0x1E#8 => .ok (.addI (xField w))
  | 0x29#8 => .ok (.ldF (xField w))
  | 0x33#8 => .ok (.ldB (xField w))
  | 0x55#8 => .ok (.ldMemVx (xField w))
  | 0x65#8 => .ok (.ldVxMem (xField w))
  | _ => .error (.badOpcode w)

/-- Decode a word: the family by `w[15:12]`, a secondary switch in families 0, 8, E and F only (R93, R94, R99).
The last arm is family F. -/
def decodeWord (w : Word) : Except Reject Instr :=
  match opField w with
  | 0x0#4 => decodeFamily0 w
  | 0x1#4 => .ok (.jp (nnnField w))
  | 0x2#4 => .ok (.call (nnnField w))
  | 0x3#4 => .ok (.seKk (xField w) (kkField w))
  | 0x4#4 => .ok (.sneKk (xField w) (kkField w))
  | 0x5#4 => .ok (.seVy (xField w) (yField w))
  | 0x6#4 => .ok (.ldKk (xField w) (kkField w))
  | 0x7#4 => .ok (.addKk (xField w) (kkField w))
  | 0x8#4 => decodeFamily8 w
  | 0x9#4 => .ok (.sneVy (xField w) (yField w))
  | 0xA#4 => .ok (.ldI (nnnField w))
  | 0xB#4 => .ok (.jpV0 (nnnField w))
  | 0xC#4 => .ok (.rnd (xField w) (kkField w))
  | 0xD#4 => .ok (.drw (xField w) (yField w) (nField w))
  | 0xE#4 => decodeFamilyE w
  | _ => decodeFamilyF w

/-- Decode the head of a byte stream: one instruction and the rest (R70, R90). -/
def decodeBytes : List Byte → Except Reject (Instr × List Byte)
  | b0 :: b1 :: rest =>
    match decodeWord (wordOfBytes b0 b1) with
    | .ok i => .ok (i, rest)
    | .error e => .error e
  | _ => .error .truncated

/-- The word that stands in a table row's numbering: the low `nbits` bits of `w`, every bit above them 0. -/
def tableWord (nbits w : Nat) : Word := BitVec.ofNat 16 (w % 2 ^ nbits)

/-- The bytes of a word as memory holds them, high byte first (R70). -/
def bytesOfWord (w : Word) : List Byte := [highByte w, lowByte w]

/-- What the decoder reads from an instruction numbered as spec/opcode_table.json numbers it. -/
def decodeTableWord (nbits w : Nat) : Option Instr :=
  match decodeBytes (bytesOfWord (tableWord nbits w)) with
  | .ok (i, _) => some i
  | .error _ => none

/-! ### The encoder -/

/-- Format A: `op` and `nnn` (R91). -/
def formatA (op : BitVec 4) (nnn : Addr) : Word := op ++ nnn

/-- Format I: `op`, `x`, `kk`; also format X with the secondary byte in place of `kk`, and format Z with
`w[11:8] = 0` (R91). -/
def formatI (op : BitVec 4) (x : Reg) (kk : Byte) : Word := op ++ bitsOfReg x ++ kk

/-- Formats R and D: `op`, `x`, `y` and a low nibble (R91). -/
def formatR (op : BitVec 4) (x y : Reg) (n : BitVec 4) : Word :=
  op ++ bitsOfReg x ++ bitsOfReg y ++ n

/-- The canonical word of an instruction: ignored bits are 0 (R95, R99, R100). -/
def encode : Instr → Word
  | .cls => formatI 0x0 0 0xE0
  | .ret => formatI 0x0 0 0xEE
  | .jp nnn => formatA 0x1 nnn
  | .call nnn => formatA 0x2 nnn
  | .seKk x kk => formatI 0x3 x kk
  | .sneKk x kk => formatI 0x4 x kk
  | .seVy x y => formatR 0x5 x y 0x0
  | .ldKk x kk => formatI 0x6 x kk
  | .addKk x kk => formatI 0x7 x kk
  | .ldVy x y => formatR 0x8 x y 0x0
  | .orVy x y => formatR 0x8 x y 0x1
  | .andVy x y => formatR 0x8 x y 0x2
  | .xorVy x y => formatR 0x8 x y 0x3
  | .addVy x y => formatR 0x8 x y 0x4
  | .sub x y => formatR 0x8 x y 0x5
  | .shr x y => formatR 0x8 x y 0x6
  | .subn x y => formatR 0x8 x y 0x7
  | .shl x y => formatR 0x8 x y 0xE
  | .sneVy x y => formatR 0x9 x y 0x0
  | .ldI nnn => formatA 0xA nnn
  | .jpV0 nnn => formatA 0xB nnn
  | .rnd x kk => formatI 0xC x kk
  | .drw x y n => formatR 0xD x y (BitVec.ofNat 4 n)
  | .skp x => formatI 0xE x 0x9E
  | .sknp x => formatI 0xE x 0xA1
  | .ldVxDt x => formatI 0xF x 0x07
  | .ldVxK x => formatI 0xF x 0x0A
  | .ldDtVx x => formatI 0xF x 0x15
  | .ldStVx x => formatI 0xF x 0x18
  | .addI x => formatI 0xF x 0x1E
  | .ldF x => formatI 0xF x 0x29
  | .ldB x => formatI 0xF x 0x33
  | .ldMemVx x => formatI 0xF x 0x55
  | .ldVxMem x => formatI 0xF x 0x65

/-- The bits of a word that decoding examines: all of them, but for `w[11:8]` of 00E0 and 00EE (R95) and
`w[3:0]` of 5xy0 and 9xy0 (R99). -/
def Instr.examined : Instr → Word
  | .cls | .ret => 0xF0FF
  | .seVy _ _ | .sneVy _ _ => 0xFFF0
  | .jp _ | .call _ | .seKk _ _ | .sneKk _ _ | .ldKk _ _ | .addKk _ _ | .ldVy _ _ | .orVy _ _ | .andVy _ _
  | .xorVy _ _ | .addVy _ _ | .sub _ _ | .shr _ _ | .subn _ _ | .shl _ _ | .ldI _ | .jpV0 _ | .rnd _ _
  | .drw _ _ _ | .skp _ | .sknp _ | .ldVxDt _ | .ldVxK _ | .ldDtVx _ | .ldStVx _ | .addI _ | .ldF _ | .ldB _
  | .ldMemVx _ | .ldVxMem _ => 0xFFFF

/-! ### The opcode map (R100) -/

/-- One line of the opcode map: a word is the row's instruction iff `w & mask = pattern`. -/
structure OpcodeRow where
  pattern : Word
  mask    : Word
deriving DecidableEq, Repr

/-- The row's instruction is what `w` encodes. -/
def OpcodeRow.hits (r : OpcodeRow) (w : Word) : Bool := w &&& r.mask == r.pattern

/-- The line of R100 an instruction belongs to. -/
def Instr.row : Instr → OpcodeRow
  | .cls => ⟨0x00E0, 0xF0FF⟩
  | .ret => ⟨0x00EE, 0xF0FF⟩
  | .jp _ => ⟨0x1000, 0xF000⟩
  | .call _ => ⟨0x2000, 0xF000⟩
  | .seKk _ _ => ⟨0x3000, 0xF000⟩
  | .sneKk _ _ => ⟨0x4000, 0xF000⟩
  | .seVy _ _ => ⟨0x5000, 0xF000⟩
  | .ldKk _ _ => ⟨0x6000, 0xF000⟩
  | .addKk _ _ => ⟨0x7000, 0xF000⟩
  | .ldVy _ _ => ⟨0x8000, 0xF00F⟩
  | .orVy _ _ => ⟨0x8001, 0xF00F⟩
  | .andVy _ _ => ⟨0x8002, 0xF00F⟩
  | .xorVy _ _ => ⟨0x8003, 0xF00F⟩
  | .addVy _ _ => ⟨0x8004, 0xF00F⟩
  | .sub _ _ => ⟨0x8005, 0xF00F⟩
  | .shr _ _ => ⟨0x8006, 0xF00F⟩
  | .subn _ _ => ⟨0x8007, 0xF00F⟩
  | .shl _ _ => ⟨0x800E, 0xF00F⟩
  | .sneVy _ _ => ⟨0x9000, 0xF000⟩
  | .ldI _ => ⟨0xA000, 0xF000⟩
  | .jpV0 _ => ⟨0xB000, 0xF000⟩
  | .rnd _ _ => ⟨0xC000, 0xF000⟩
  | .drw _ _ _ => ⟨0xD000, 0xF000⟩
  | .skp _ => ⟨0xE09E, 0xF0FF⟩
  | .sknp _ => ⟨0xE0A1, 0xF0FF⟩
  | .ldVxDt _ => ⟨0xF007, 0xF0FF⟩
  | .ldVxK _ => ⟨0xF00A, 0xF0FF⟩
  | .ldDtVx _ => ⟨0xF015, 0xF0FF⟩
  | .ldStVx _ => ⟨0xF018, 0xF0FF⟩
  | .addI _ => ⟨0xF01E, 0xF0FF⟩
  | .ldF _ => ⟨0xF029, 0xF0FF⟩
  | .ldB _ => ⟨0xF033, 0xF0FF⟩
  | .ldMemVx _ => ⟨0xF055, 0xF0FF⟩
  | .ldVxMem _ => ⟨0xF065, 0xF0FF⟩

/-- The "Encoding" clause of an instruction's rule: its canonical word and every word that decodes to it have `w & mask =
pattern`. -/
def Instr.EncodedAs (i : Instr) (pattern mask : Word) : Prop :=
  encode i &&& mask = pattern ∧ ∀ w, decodeWord w = .ok i → w &&& mask = pattern

/-- The 34 lines of R100, in its order: the control, immediate and family 8 lines, then the others. -/
def opcodeMap : List OpcodeRow :=
  [⟨0x00E0, 0xF0FF⟩, ⟨0x00EE, 0xF0FF⟩, ⟨0x1000, 0xF000⟩, ⟨0x2000, 0xF000⟩, ⟨0x3000, 0xF000⟩, ⟨0x4000, 0xF000⟩,
   ⟨0x5000, 0xF000⟩, ⟨0x6000, 0xF000⟩, ⟨0x7000, 0xF000⟩] ++
  [⟨0x8000, 0xF00F⟩, ⟨0x8001, 0xF00F⟩, ⟨0x8002, 0xF00F⟩, ⟨0x8003, 0xF00F⟩, ⟨0x8004, 0xF00F⟩, ⟨0x8005, 0xF00F⟩,
   ⟨0x8006, 0xF00F⟩, ⟨0x8007, 0xF00F⟩, ⟨0x800E, 0xF00F⟩] ++
  [⟨0x9000, 0xF000⟩, ⟨0xA000, 0xF000⟩, ⟨0xB000, 0xF000⟩, ⟨0xC000, 0xF000⟩, ⟨0xD000, 0xF000⟩, ⟨0xE09E, 0xF0FF⟩,
   ⟨0xE0A1, 0xF0FF⟩] ++
  [⟨0xF007, 0xF0FF⟩, ⟨0xF00A, 0xF0FF⟩, ⟨0xF015, 0xF0FF⟩, ⟨0xF018, 0xF0FF⟩, ⟨0xF01E, 0xF0FF⟩, ⟨0xF029, 0xF0FF⟩,
   ⟨0xF033, 0xF0FF⟩, ⟨0xF055, 0xF0FF⟩, ⟨0xF065, 0xF0FF⟩]

end Sys2Proof
end

