-- ==== Sys2Proof/Config.lean ====
section
/-! DEFINITION. What the spec leaves to the implementation (R7, R8): the configuration straps and the random
source. Both are constants without a body: no proof can see their values. -/
namespace Sys2Proof

/-- The configuration straps (R7, R52): the screen-edge policy of each axis (`true` wraps, `false` clips) and
the 80 bytes of the built-in font. Constant from one reset to the next; no instruction reads or writes them. -/
structure Straps where
  wrapX : Bool
  wrapY : Bool
  font  : Vector Byte 80
deriving DecidableEq, Repr, Inhabited

/-- The straps of the machine at hand (R7, D2, D20: OPEN). Free value: no body. Log entry 1. -/
opaque Config.straps : Straps

/-- The draws of the random source outside CORE (R8, R176, D13): the byte of the `k`-th draw, under no law.
Free value: no body. Log entry 2. -/
opaque Config.draw : Nat → Byte

end Sys2Proof
end

