-- ==== Sys2Proof/Machine/State.lean ====
section
/-! DEFINITION. The state of CORE (R20) as plain data, the reasons a step can stop, and the state after reset
(R55, R290). -/
namespace Sys2Proof.Machine

/-- The engine state `ES` (R35, R120). -/
inductive Engine where
  /-- 0: before the first instruction -/
  | ready
  /-- 1: normal instruction stream -/
  | running
  /-- 2: an Fx0A waits for a key -/
  | waitingForKey
  /-- 3: terminal -/
  | halted
deriving DecidableEq, Repr

/-- The two bits of `ES` (R35). -/
def Engine.code : Engine → BitVec 2
  | .ready => 0
  | .running => 1
  | .waitingForKey => 2
  | .halted => 3

/-- The content of the register `FAULT`: why the engine halted (R36, R255). -/
inductive Cause where
  | none
  | stackUnderflow
  | stackOverflow
  | memBounds
  | storeProtect
deriving DecidableEq, Repr

/-- The three bits of `FAULT` (R36, R255). -/
def Cause.code : Cause → BitVec 3
  | .none => 0
  | .stackUnderflow => 1
  | .stackOverflow => 2
  | .memBounds => 3
  | .storeProtect => 4

/-- Memory as a list of (address, byte) pairs in one canonical form (`Memory.wf` in Machine/Ops.lean): an
unlisted address reads as its reset content. -/
abbrev Memory := List Host.Cell

/-- The framebuffer: 32 rows of 64 one-bit cells, indexed row first (R33). -/
abbrev Screen := Vector (Vector Bool 64) 32

/-- All cells 0. -/
def blankScreen : Screen := Vector.replicate 32 (Vector.replicate 64 false)

/-- The diagnostic event `BadOpcode(addr, word)` (R262). -/
structure BadOpcode where
  addr : Word
  word : Word
deriving DecidableEq, Repr

/-- The machine's state: the tuple of R20, and four fields of the model's own. -/
structure State where
  /-- `mem`: 4096 bytes (R30) -/
  mem      : Memory
  /-- `V[0]` to `V[15]` (R21), VF among them (R22) -/
  v        : Vector Byte 16
  /-- `I` (R24) -/
  i        : Word
  /-- `PC` (R25) -/
  pc       : Word
  /-- `stack` (R27) -/
  stack    : Vector Word 16
  /-- `SP`: entries in use, 0 to 16 (R28) -/
  sp       : Fin 17
  /-- `DT` (R29) -/
  dt       : Byte
  /-- `ST` (R29) -/
  st       : Byte
  /-- `K`: 16 key flags (R32) -/
  keys     : Vector Bool 16
  /-- `FB` (R33) -/
  fb       : Screen
  /-- `DIRTY` (R34) -/
  dirty    : Bool
  /-- `ES` (R35) -/
  es       : Engine
  /-- `FAULT` (R36) -/
  fault    : Cause
  /-- `FAULT_PC` (R37) -/
  faultPc  : Word
  /-- `PROG_END` (R38) -/
  progEnd  : Word
  /-- `WAIT_X` (R39) -/
  waitX    : Reg
  /-- The model's own: the configuration straps `WRAP_X`, `WRAP_Y`, `FONT` (R7, R52). No instruction writes
  them. Log entry 1. -/
  straps   : Straps
  /-- The model's own: how many draws of the random source were consumed (R8). Log entry 2. -/
  draws    : Nat
  /-- The model's own: the diagnostic output of the latest step (R46, R262); every step writes it anew. Log
  entry 3. -/
  event    : Option BadOpcode
deriving DecidableEq, Repr

/-- Why a step answers no next state by a fault: never. Every fatal fault of the spec is an entry the spec
describes (R256): a next state in `Halted` with `FAULT` set. So this type has no constructor, and that a step
never faults is a matter of its type (safe: nothing is hidden in a stop). Log entry 4. -/
inductive Fault where
deriving DecidableEq, Repr

/-- Why an operation has no meaning. -/
inductive Refusal where
  /-- Raised by `exec` alone, for an instruction whose meaning is not written yet (safe: nothing is claimed). -/
  | notModelled (mnemonic : String)
  /-- Raised by the host operation `loadProgram` alone, outside `Ready`, where the spec gives it no meaning
  (R294, U9: "a model refuses it"); safe. -/
  | loadNotReady
deriving DecidableEq, Repr

/-- The state after `reset` on a machine with the given straps: the table of R55. Memory lists nothing: an
unlisted address reads as its reset content, 0 or the font byte (R30, R31). -/
def State.resetWith (straps : Straps) : State where
  mem      := []
  v        := Vector.replicate 16 0
  i        := 0
  pc       := 0x200
  stack    := Vector.replicate 16 0
  sp       := 0
  dt       := 0
  st       := 0
  keys     := Vector.replicate 16 false
  fb       := blankScreen
  dirty    := false
  es       := .ready
  fault    := .none
  faultPc  := 0
  progEnd  := 0x200
  waitX    := 0
  straps   := straps
  draws    := 0
  event    := none

/-- The machine right after reset (R55, R290, R291), with the straps of the machine at hand. -/
def State.reset : State := State.resetWith Config.straps

end Sys2Proof.Machine
end

