-- ==== Sys2Proof/Machine/Operands.lean ====
section
/-! DEFINITION. The operand forms: what an instruction reads from its fields and the registers (R92, R190,
R230), and the values it computes from them that are no flags. -/
namespace Sys2Proof.Machine

/-- `V[x]` (R21). -/
def State.reg (s : State) (x : Reg) : Byte := s.v[x]

/-- The low nibble of a byte, as a glyph or key number (R193, R230). -/
def lowNibble (b : Byte) : Fin 16 := (b.extractLsb' 0 4).toFin

/-- `zext_16(nnn)`: an instruction's address (R11, R142). -/
def zextAddr (nnn : Addr) : Word := nnn.setWidth 16

/-- `zext_16` of a register (R146, R192). -/
def zextByte (b : Byte) : Word := b.setWidth 16

/-- The base address of a data access: all 16 bits of `I`, as a natural number (R63). -/
def State.base (s : State) : Nat := s.i.toNat

/-- `V[0], ..., V[x]` in ascending order: what Fx55 stores (R195). -/
def State.regsUpTo (s : State) (x : Reg) : List Byte := s.v.toList.take (x.val + 1)

/-- The address of the 5-byte glyph of a digit (R31, R193). -/
def glyphAddr (d : Fin 16) : Word := BitVec.ofNat 16 (0x050 + 5 * d.val)

/-- Hundreds, tens and ones of a byte, one digit each (R194). -/
def bcdDigits (b : Byte) : List Byte :=
  [BitVec.ofNat 8 (b.toNat / 100), BitVec.ofNat 8 (b.toNat / 10 % 10), BitVec.ofNat 8 (b.toNat % 10)]

/-- The key flag `K[k]` (R32). -/
def State.key (s : State) (k : Fin 16) : Bool := s.keys[k]

/-- `min` of the pressed keys, if one is pressed (R123, R236). -/
def State.pressedKey (s : State) : Option (Fin 16) := (List.finRange 16).find? s.key

/-- A key's index as a register value, 0 to 15 (R236). -/
def keyByte (k : Fin 16) : Byte := BitVec.ofNat 8 k.val

/-- Pixel `j` of a sprite row, `j = 0` leftmost: bit `7 - j` (R213). -/
def spriteBit (row : Byte) (j : Nat) : Bool := row.getLsbD (7 - j)

/-- Coordinate resolution on one axis (R212): with `wrap` the sum modulo the size, else the sum itself where it
is on the screen. `none` is a pixel that is not visible. -/
def resolve (wrap : Bool) (size : Nat) [NeZero size] (sum : Nat) : Option (Fin size) :=
  if wrap then some (Fin.ofNat size sum)
  else if h : sum < size then some ⟨sum, h⟩ else none

/-- The cell `FB[r][c]` (R33). -/
def State.pixel (s : State) (r : Fin 32) (c : Fin 64) : Bool := s.fb[r][c]

end Sys2Proof.Machine
end

