-- ==== Sys2Proof/Machine/Ops.lean ====
section
/-! DEFINITION. The named operations over memory, registers, stack, keypad, timers and screen, the fatal-fault
entry (R256) and what instructions share. -/
namespace Sys2Proof.Machine

/-! ### Memory (R30, R60, R61) -/

/-- What an address reads as while nothing is listed for it: its reset content (R30, R31, R55). -/
def unlistedByte (font : Vector Byte 80) (a : Nat) : Byte :=
  if h : 0x050 ≤ a ∧ a < 0x0A0 then font[a - 0x050] else 0

/-- The canonical form: addresses strictly rising, inside the address space, and no entry equal to what the
address reads as when unlisted. -/
abbrev Memory.wf (font : Vector Byte 80) (m : Memory) : Prop :=
  m.Pairwise (fun c d => c.1 < d.1) ∧ ∀ c ∈ m, c.1 < 0x1000 ∧ c.2 ≠ unlistedByte font c.1

/-- The byte at an address. -/
def Memory.read (font : Vector Byte 80) : Memory → Nat → Byte
  | [], a => unlistedByte font a
  | c :: m, a => if c.1 = a then c.2 else Memory.read font m a

/-- The list without an address. -/
def Memory.erase (m : Memory) (a : Nat) : Memory := m.filter fun c => decide (c.1 ≠ a)

/-- The list with an entry for an address it does not list, at its place. -/
def Memory.insert : Memory → Nat → Byte → Memory
  | [], a, b => [(a, b)]
  | c :: m, a, b => if a < c.1 then (a, b) :: c :: m else c :: Memory.insert m a b

/-- Write one byte, keeping the canonical form. -/
def Memory.write (font : Vector Byte 80) (m : Memory) (a : Nat) (b : Byte) : Memory :=
  if b = unlistedByte font a then m.erase a else (m.erase a).insert a b

/-- Write bytes at ascending addresses (R71). -/
def Memory.writeBytes (font : Vector Byte 80) (m : Memory) (a : Nat) : List Byte → Memory
  | [] => m
  | b :: bs => Memory.writeBytes font (m.write font a b) (a + 1) bs

/-- `mem[a]`. -/
def State.readByte (s : State) (a : Nat) : Byte := s.mem.read s.straps.font a

/-- `mem[a], ..., mem[a + cnt - 1]` in ascending order (R12, R71). -/
def State.readBytes (s : State) (a cnt : Nat) : List Byte := (List.range cnt).map fun k => s.readByte (a + k)

/-- Store bytes with no check: what `loadProgram` and a store that passed its checks use (R12, R292). -/
def State.storeBytes (s : State) (a : Nat) (bs : List Byte) : State :=
  { s with mem := s.mem.writeBytes s.straps.font a bs }

/-- `MemRead(a, cnt)`: the bounds checker on reads (R12, R64). The sum is a natural number: nothing wraps
(R63). -/
def State.memRead (s : State) (a cnt : Nat) : Except Cause (List Byte) :=
  if 0xFFF < a + cnt - 1 then .error .memBounds else .ok (s.readBytes a cnt)

/-- `MemWrite(a, cnt, bytes)`: the bounds checker on writes, then the write protection of the reserved region
(R12, R65, R66). -/
def State.memWrite (s : State) (a : Nat) (bs : List Byte) : Except Cause State :=
  if 0xFFF < a + bs.length - 1 then .error .memBounds
  else if a < 0x200 then .error .storeProtect
  else .ok (s.storeBytes a bs)

/-! ### Registers, program counter, stack, timers, screen, engine -/

/-- `V[x] <- b` (R21). -/
def State.setReg (s : State) (x : Reg) (b : Byte) : State := { s with v := s.v.set x.val b }

/-- `V[k] <- bs[k]` for every `k` below the length of `bs`; the registers above keep their values (R196). -/
def State.loadRegs (s : State) (bs : List Byte) : State :=
  { s with v := Vector.ofFn fun r : Fin 16 => bs.getD r.val s.v[r] }

/-- `I <- a` (R24). -/
def State.setI (s : State) (a : Word) : State := { s with i := a }

/-- `PC <- a` (R25). -/
def State.setPc (s : State) (a : Word) : State := { s with pc := a }

/-- `PC <- PC + 2`, modulo 65536 (R26, R127). -/
def State.advance (s : State) : State := s.setPc (s.pc + 2)

/-- `PC <- PC + 4`: a skip whose test held; the skipped word is not looked at (R127). -/
def State.skip (s : State) : State := s.setPc (s.pc + 4)

/-- Push: `stack[SP] <- a; SP <- SP + 1`; with 16 entries in use `StackOverflow` (R27, R143, R252). -/
def State.push (s : State) (a : Word) : Except Cause State :=
  if h : s.sp.val < 16 then
    .ok { s with stack := s.stack.set s.sp.val a, sp := ⟨s.sp.val + 1, by omega⟩ }
  else .error .stackOverflow

/-- Pop into `PC`: `SP <- SP - 1; PC <- stack[SP]`; the slot keeps its content. With no entry in use
`StackUnderflow` (R27, R141, R251). -/
def State.popPc (s : State) : Except Cause State :=
  if h : s.sp.val = 0 then .error .stackUnderflow
  else .ok { s with sp := ⟨s.sp.val - 1, by omega⟩, pc := s.stack[s.sp.val - 1]'(by omega) }

/-- `DT <- b` (R239). -/
def State.setDt (s : State) (b : Byte) : State := { s with dt := b }

/-- `ST <- b` (R240). -/
def State.setSt (s : State) (b : Byte) : State := { s with st := b }

/-- A framebuffer write by 00E0 or Dxyn: it sets `DIRTY` without condition (R34). -/
def State.setScreen (s : State) (fb : Screen) : State := { s with fb := fb, dirty := true }

/-- An Fx0A begins to wait: `WAIT_X <- x; ES <- WaitingForKey`, `PC` unchanged (R236). -/
def State.beginWait (s : State) (x : Reg) : State := { s with waitX := x, es := .waitingForKey }

/-- `ES <- e` (R35). -/
def State.setEs (s : State) (e : Engine) : State := { s with es := e }

/-- Consume one draw of the random source (R8, R176). -/
def State.nextDraw (s : State) : State := { s with draws := s.draws + 1 }

/-- The step's diagnostic output (R46, R262). -/
def State.emit (s : State) (e : Option BadOpcode) : State := { s with event := e }

/-! ### Taking an exception -/

/-- The fatal-fault entry, the one way CORE takes an exception (R256): `ES <- Halted; FAULT <- c;
FAULT_PC <- PC`, and nothing else changes. There is no return from it: no instruction leaves `Halted` (R259);
only the host operation `reset` does (`State.hostReset`, R290). -/
def State.raise (s : State) (c : Cause) : State := { s with es := .halted, fault := c, faultPc := s.pc }

/-- The end of an instruction that may raise a fault: its new state, or the entry from the state at its start,
with none of its writes performed (R13, R68, R257). -/
def State.complete (s : State) : Except Cause State → Host.Outcome State Fault Refusal
  | .ok t => .next t
  | .error c => .next (s.raise c)

/-! ### What instructions of one shape share -/

/-- A result in `V[x]` and nothing else (R162 to R167). -/
def State.putResult (s : State) (x : Reg) (b : Byte) : State := (s.setReg x b).advance

/-- A result in `V[x]`, then the flag in VF: with `x = F` the flag is what VF holds (R161). -/
def State.putFlagged (s : State) (x : Reg) (b : Byte) (f : Bool) : State :=
  ((s.setReg x b).setReg VF (flagByte f)).advance

/-- A conditional skip (R127). -/
def State.skipIf (s : State) (c : Bool) : State := if c then s.skip else s.advance

/-! ### The timers (R130) -/

/-- One count down, saturating at 0. -/
def countDown (b : Byte) : Byte := if b = 0 then 0 else b - 1

/-- The timer tick: both timers, each if non-zero (R130). -/
def State.tick (s : State) : State := { s with dt := countDown s.dt, st := countDown s.st }

end Sys2Proof.Machine
end

