-- ==== Sys2Proof/Machine/Alu.lean ====
section
/-! DEFINITION. Register load and ALU: 6xkk, 7xkk, 8xy0 to 8xy7, 8xyE, Cxkk (R160 to R179). Every meaning reads
its sources from the state at the start of the instruction (R160). -/
namespace Sys2Proof.Machine

/-- 6xkk: `V[x] <- kk` (R162). -/
def execLdKk (x : Reg) (kk : Byte) (s : State) : Host.Outcome State Fault Refusal := .next (s.putResult x kk)

/-- 7xkk: `V[x] <- (V[x] + kk) mod 256`, no flag (R163). -/
def execAddKk (x : Reg) (kk : Byte) (s : State) : Host.Outcome State Fault Refusal :=
  .next (s.putResult x (s.reg x + kk))

/-- 8xy0: `V[x] <- V[y]` (R164). -/
def execLdVy (x y : Reg) (s : State) : Host.Outcome State Fault Refusal := .next (s.putResult x (s.reg y))

/-- 8xy1: bitwise or, no flag (R165). -/
def execOrVy (x y : Reg) (s : State) : Host.Outcome State Fault Refusal :=
  .next (s.putResult x (s.reg x ||| s.reg y))

/-- 8xy2: bitwise and, no flag (R166). -/
def execAndVy (x y : Reg) (s : State) : Host.Outcome State Fault Refusal :=
  .next (s.putResult x (s.reg x &&& s.reg y))

/-- 8xy3: bitwise exclusive or, no flag (R167). -/
def execXorVy (x y : Reg) (s : State) : Host.Outcome State Fault Refusal :=
  .next (s.putResult x (s.reg x ^^^ s.reg y))

/-- 8xy4: sum modulo 256, VF the carry (R168). -/
def execAddVy (x y : Reg) (s : State) : Host.Outcome State Fault Refusal :=
  .next (s.putFlagged x (s.reg x + s.reg y) (carry (s.reg x) (s.reg y)))

/-- 8xy5: `V[x] - V[y]` modulo 256, VF the absence of borrow (R169). -/
def execSub (x y : Reg) (s : State) : Host.Outcome State Fault Refusal :=
  .next (s.putFlagged x (s.reg x - s.reg y) (noBorrow (s.reg x) (s.reg y)))

/-- 8xy6: `V[x]` shifted right by one, VF the bit shifted out; `y` is ignored (R170). -/
def execShr (x _y : Reg) (s : State) : Host.Outcome State Fault Refusal :=
  .next (s.putFlagged x (s.reg x >>> 1) (lowBit (s.reg x)))

/-- 8xy7: `V[y] - V[x]` modulo 256, VF the absence of borrow (R171). -/
def execSubn (x y : Reg) (s : State) : Host.Outcome State Fault Refusal :=
  .next (s.putFlagged x (s.reg y - s.reg x) (noBorrow (s.reg y) (s.reg x)))

/-- 8xyE: `V[x]` shifted left by one, VF the bit shifted out; `y` is ignored (R172). -/
def execShl (x _y : Reg) (s : State) : Host.Outcome State Fault Refusal :=
  .next (s.putFlagged x (s.reg x <<< 1) (highBit (s.reg x)))

/-- Cxkk: `V[x] <- rnd & kk`, `rnd` the next draw of the random source, under no law (R8, R176). -/
def execRnd (x : Reg) (kk : Byte) (s : State) : Host.Outcome State Fault Refusal :=
  .next ((s.putResult x (Config.draw s.draws &&& kk)).nextDraw)

end Sys2Proof.Machine
end

