-- ==== Sys2Proof/Machine/Control.lean ====
section
/-! DEFINITION. Control transfer: 00EE, 1nnn, 2nnn, Bnnn, 3xkk, 4xkk, 5xy0, 9xy0 (R140 to R151). -/
namespace Sys2Proof.Machine

/-- 00EE: pop the return address into `PC`; `StackUnderflow` on an empty stack (R141). -/
def execRet (s : State) : Host.Outcome State Fault Refusal := s.complete s.popPc

/-- 1nnn: `PC <- nnn` (R142). -/
def execJp (nnn : Addr) (s : State) : Host.Outcome State Fault Refusal := .next (s.setPc (zextAddr nnn))

/-- 2nnn: push `PC + 2`, then `PC <- nnn`; `StackOverflow` on a full stack (R143). -/
def execCall (nnn : Addr) (s : State) : Host.Outcome State Fault Refusal :=
  s.complete ((s.push (s.pc + 2)).map fun t => t.setPc (zextAddr nnn))

/-- Bnnn: `PC <- nnn + V0`, not reduced modulo 4096 (R146). -/
def execJpV0 (nnn : Addr) (s : State) : Host.Outcome State Fault Refusal :=
  .next (s.setPc (zextAddr nnn + zextByte (s.reg 0)))

/-- 3xkk: skip if `V[x] = kk` (R147). -/
def execSeKk (x : Reg) (kk : Byte) (s : State) : Host.Outcome State Fault Refusal :=
  .next (s.skipIf (s.reg x == kk))

/-- 4xkk: skip if `V[x] != kk` (R148). -/
def execSneKk (x : Reg) (kk : Byte) (s : State) : Host.Outcome State Fault Refusal :=
  .next (s.skipIf (s.reg x != kk))

/-- 5xy0: skip if `V[x] = V[y]` (R149). -/
def execSeVy (x y : Reg) (s : State) : Host.Outcome State Fault Refusal :=
  .next (s.skipIf (s.reg x == s.reg y))

/-- 9xy0: skip if `V[x] != V[y]` (R150). -/
def execSneVy (x y : Reg) (s : State) : Host.Outcome State Fault Refusal :=
  .next (s.skipIf (s.reg x != s.reg y))

end Sys2Proof.Machine
end

