-- ==== Sys2Proof/Machine/Display.lean ====
section
/-! DEFINITION. Display: 00E0, Dxyn (R210 to R216). -/
namespace Sys2Proof.Machine

/-- The framebuffer while it is drawn on, and whether a drawn pixel found its cell at 1 (`coll`, R213). -/
structure Canvas where
  fb   : Screen
  coll : Bool
deriving DecidableEq, Repr

/-- One drawn pixel: note a collision if the cell is 1, then flip the cell (R213). -/
def Canvas.flip (cv : Canvas) (r : Fin 32) (c : Fin 64) : Canvas where
  fb   := cv.fb.set r.val (cv.fb[r].set c.val (!cv.fb[r][c]))
  coll := cv.coll || cv.fb[r][c]

/-- One sprite bit, with the column and row sums it falls on (R212, R213): a 0 bit and a pixel that is not
visible on both axes change nothing. -/
def Canvas.drawBit (straps : Straps) (bit : Bool) (sx sy : Nat) (cv : Canvas) : Canvas :=
  if bit then
    match resolve straps.wrapY 32 sy, resolve straps.wrapX 64 sx with
    | some r, some c => cv.flip r c
    | _, _ => cv
  else cv

/-- One sprite row: `j` in 0 to 7, the leftmost pixel first (R213). -/
def Canvas.drawRow (straps : Straps) (row : Byte) (vx sy : Nat) (cv : Canvas) : Canvas :=
  (List.range 8).foldl (fun cv j => cv.drawBit straps (spriteBit row j) (vx + j) sy) cv

/-- The sprite's rows, top row first, the first of them at row sum `sy` (R71, R213). -/
def Canvas.drawRows (straps : Straps) (vx : Nat) : Nat → List Byte → Canvas → Canvas
  | _, [], cv => cv
  | sy, row :: rows, cv => Canvas.drawRows straps vx (sy + 1) rows (cv.drawRow straps row vx sy)

/-- The sprite's bytes: `n` of them at `I`; none are read if `n = 0` (R12, R213, R214). -/
def State.spriteRows (s : State) (n : Nat) : Except Cause (List Byte) :=
  if n = 0 then .ok [] else s.memRead s.base n

/-- The canvas after drawing `rows` at (`V[x]`, `V[y]`). -/
def State.drawSprite (s : State) (x y : Reg) (rows : List Byte) : Canvas :=
  Canvas.drawRows s.straps (s.reg x).toNat (s.reg y).toNat rows ⟨s.fb, false⟩

/-- 00E0: every cell 0, `DIRTY` set (R211). -/
def execCls (s : State) : Host.Outcome State Fault Refusal := .next (s.setScreen blankScreen).advance

/-- The state after a draw: `FB`, `DIRTY`, then VF the collision flag (R213). -/
def State.showCanvas (s : State) (cv : Canvas) : State :=
  ((s.setScreen cv.fb).setReg VF (flagByte cv.coll)).advance

/-- Dxyn: an `n`-row sprite at (`V[x]`, `V[y]`), both read before VF is written (R213). -/
def execDrw (x y : Reg) (n : Nat) (s : State) : Host.Outcome State Fault Refusal :=
  s.complete ((s.spriteRows n).map fun rows => s.showCanvas (s.drawSprite x y rows))

end Sys2Proof.Machine
end

