-- ==== Sys2Proof/Machine/Index.lean ====
section
/-! DEFINITION. Index register, loads and stores: Annn, Fx1E, Fx29, Fx33, Fx55, Fx65 (R190 to R197). `I` is
never modified by an access it bases (R190). -/
namespace Sys2Proof.Machine

/-- Annn: `I <- nnn` (R191). -/
def execLdI (nnn : Addr) (s : State) : Host.Outcome State Fault Refusal := .next (s.setI (zextAddr nnn)).advance

/-- Fx1E: `I <- (I + V[x]) mod 65536`, no flag, no fault (R192). -/
def execAddI (x : Reg) (s : State) : Host.Outcome State Fault Refusal :=
  .next (s.setI (s.i + zextByte (s.reg x))).advance

/-- Fx29: `I <-` the address of the glyph of the low nibble of `V[x]` (R193). -/
def execLdF (x : Reg) (s : State) : Host.Outcome State Fault Refusal :=
  .next (s.setI (glyphAddr (lowNibble (s.reg x)))).advance

/-- Fx33: the three decimal digits of `V[x]` at `I`, `I + 1`, `I + 2` (R194). -/
def execLdB (x : Reg) (s : State) : Host.Outcome State Fault Refusal :=
  s.complete ((s.memWrite s.base (bcdDigits (s.reg x))).map State.advance)

/-- Fx55: `V[0]` to `V[x]` at `I` and upward (R195). -/
def execLdMemVx (x : Reg) (s : State) : Host.Outcome State Fault Refusal :=
  s.complete ((s.memWrite s.base (s.regsUpTo x)).map State.advance)

/-- Fx65: `V[0]` to `V[x]` from `I` and upward (R196). -/
def execLdVxMem (x : Reg) (s : State) : Host.Outcome State Fault Refusal :=
  s.complete ((s.memRead s.base (x.val + 1)).map fun bs => (s.loadRegs bs).advance)

end Sys2Proof.Machine
end

