-- ==== Sys2Proof/Machine/KeysTimers.lean ====
section
/-! DEFINITION. Keypad and timers: Ex9E, ExA1, Fx07, Fx0A, Fx15, Fx18 (R230 to R241). -/
namespace Sys2Proof.Machine

/-- Ex9E: skip if the key numbered by the low nibble of `V[x]` is pressed (R230, R231). -/
def execSkp (x : Reg) (s : State) : Host.Outcome State Fault Refusal :=
  .next (s.skipIf (s.key (lowNibble (s.reg x))))

/-- ExA1: skip if that key is not pressed (R230, R232). -/
def execSknp (x : Reg) (s : State) : Host.Outcome State Fault Refusal :=
  .next (s.skipIf (!s.key (lowNibble (s.reg x))))

/-- Fx07: `V[x] <- DT`, before the step's tick (R238). -/
def execLdVxDt (x : Reg) (s : State) : Host.Outcome State Fault Refusal := .next (s.putResult x s.dt)

/-- Fx0A in the step that fetches it: the smallest pressed key at once, or begin to wait (R236). -/
def execLdVxK (x : Reg) (s : State) : Host.Outcome State Fault Refusal :=
  match s.pressedKey with
  | some k => .next (s.putResult x (keyByte k))
  | none => .next (s.beginWait x)

/-- Fx15: `DT <- V[x]`; the tick of the same step acts on it (R239). -/
def execLdDtVx (x : Reg) (s : State) : Host.Outcome State Fault Refusal := .next (s.setDt (s.reg x)).advance

/-- Fx18: `ST <- V[x]`; the tick of the same step acts on it (R240). -/
def execLdStVx (x : Reg) (s : State) : Host.Outcome State Fault Refusal := .next (s.setSt (s.reg x)).advance

end Sys2Proof.Machine
end

