-- ==== Sys2Proof/Machine/Cycle.lean ====
section
/-! DEFINITION. The step cycle: what Machine/Step.lean calls (R120 to R131). -/
namespace Sys2Proof.Machine

/-- The end-of-program test: `PC >= PROG_END` (R124). -/
def State.pastEnd (s : State) : Bool := decide (s.progEnd.toNat ≤ s.pc.toNat)

/-- `MemFetch(PC)`: two consecutive bytes, big-endian, bounds-checked; never write-protected (R67, R70, R125). -/
def State.fetchWord (s : State) : Except Cause Word :=
  (s.memRead s.pc.toNat 2).map fun _ => wordOfBytes (s.readByte s.pc.toNat) (s.readByte (s.pc.toNat + 1))

/-- The bad opcode: the event, `PC + 2`, nothing else (R128). -/
def State.badOpcode (s : State) (w : Word) : State := (s.emit (some ⟨s.pc, w⟩)).advance

/-- The waiting step before its tick (R123): with a key pressed `V[WAIT_X] <-` the smallest one's index,
`PC + 2`, `ES <- Running`. -/
def State.pollKeys (s : State) : State :=
  match s.pressedKey with
  | some k => (s.putResult s.waitX (keyByte k)).setEs .running
  | none => s

/-- The end of a step that executed: the timer tick, unless the execution raised a fatal fault (R129, R130).
From a state in `Running` the execute phase reaches `Halted` by a fatal fault alone. -/
def State.finish (s : State) : State := if s.es = .halted then s else s.tick

/-- The execute phase and what follows it, on the fetched word (R126 to R130). -/
def execWord (w : Word) (s : State) : Host.Outcome State Fault Refusal :=
  match decodeWord w with
  | .error _ => .next (s.badOpcode w).tick
  | .ok i =>
    match exec i s with
    | .next t => .next t.finish
    | .fault r => .fault r
    | .refused r => .refused r

/-- A step in `Ready` or `Running` (R122): end-of-program test, fetch, `ES <- Running`, decode, execute. -/
def runStep (s : State) : Host.Outcome State Fault Refusal :=
  if s.pastEnd then .next (s.setEs .halted)
  else
    match s.fetchWord with
    | .error c => .next (s.raise c)
    | .ok w => execWord w (s.setEs .running)

/-- One step by `ES` (R122), its diagnostic output empty unless it decodes a bad opcode (R262). -/
def cycle (s : State) : Host.Outcome State Fault Refusal :=
  match s.es with
  | .halted => .next (s.emit none)
  | .waitingForKey => .next (s.emit none).pollKeys.tick
  | .ready => runStep (s.emit none)
  | .running => runStep (s.emit none)

/-- The address the next fetch reads, moved to the entry point where `PC` is no address a word fits at. -/
def State.fetchAddr (s : State) : Word := if s.pc.toNat ≤ 0xFFE then s.pc else 0x200

/-- Load a word where the next step fetches, so that the next step runs it: the two bytes at `PC`; `PROG_END`
just past them if it does not lie beyond `PC` already (what a load of a program does, R292); the engine in
`Running` if it was waiting or halted. Log entry 6. -/
def State.placeWord (s : State) (w : Word) : State :=
  { s.storeBytes s.fetchAddr.toNat (bytesOfWord w) with
    pc      := s.fetchAddr
    progEnd := if s.fetchAddr.toNat < s.progEnd.toNat then s.progEnd else s.fetchAddr + 2
    es      := match s.es with
      | .ready => .ready
      | .running => .running
      | .waitingForKey => .running
      | .halted => .running }

end Sys2Proof.Machine
end

