-- ==== Sys2Proof/Machine/HostOps.lean ====
section
/-! DEFINITION. The host operations and ports (R45 to R52, R270 to R272, R290 to R294). They act between steps,
never inside one (R45, R302). -/
namespace Sys2Proof.Machine

/-- Host operation `reset` (R47, R290), allowed in every engine state: every piece of state at its reset value,
for the straps of the machine. The random source is outside CORE and goes on (R274). -/
def State.hostReset (s : State) : State := { State.resetWith s.straps with draws := s.draws }

/-- What `loadProgram` reports to the host (R48, R263). -/
inductive LoadResult where
  | success
  | tooLong
deriving DecidableEq, Repr

/-- `MAX_ROM`: 3584 bytes (R6). -/
def maxRom : Nat := 3584

/-- Host operation `loadProgram(bytes)` (R292, R293): the bytes verbatim from 0x200 up and `PROG_END` just past
them; nothing at all if they are too many. Outside `Ready` it has no meaning and is refused (R294, U9). -/
def State.loadProgram (s : State) (bytes : List Byte) : Host.Outcome (State × LoadResult) Fault Refusal :=
  match s.es with
  | .ready =>
    if bytes.length ≤ maxRom then
      .next ({ s.storeBytes 0x200 bytes with progEnd := BitVec.ofNat 16 (0x200 + bytes.length) }, .success)
    else .next (s, .tooLong)
  | .running => .refused .loadNotReady
  | .waitingForKey => .refused .loadNotReady
  | .halted => .refused .loadNotReady

/-- Host operation `setKey(k, b)` (R49, R270). -/
def State.setKey (s : State) (k : Fin 16) (b : Bool) : State := { s with keys := s.keys.set k.val b }

/-- Host operation `clearDirty` (R50, R271). -/
def State.clearDirty (s : State) : State := { s with dirty := false }

/-- The display port: what the host reads between steps (R50, R271). -/
structure DisplayPort where
  fb    : Screen
  dirty : Bool
deriving DecidableEq, Repr

/-- Reading the display port changes nothing. -/
def State.displayPort (s : State) : DisplayPort := ⟨s.fb, s.dirty⟩

/-- The diagnostic port: what the host reads between steps (R51, R272). -/
structure DiagnosticPort where
  pc      : Word
  sp      : Fin 17
  i       : Word
  v       : Vector Byte 16
  dt      : Byte
  st      : Byte
  mem     : List Byte
  stack   : Vector Word 16
  es      : BitVec 2
  fault   : BitVec 3
  faultPc : Word
  progEnd : Word
  waitX   : Reg
  event   : Option BadOpcode
deriving DecidableEq, Repr

/-- Reading the diagnostic port changes nothing; memory is dumped whole. -/
def State.diagnosticPort (s : State) : DiagnosticPort where
  pc      := s.pc
  sp      := s.sp
  i       := s.i
  v       := s.v
  dt      := s.dt
  st      := s.st
  mem     := s.readBytes 0 0x1000
  stack   := s.stack
  es      := s.es.code
  fault   := s.fault.code
  faultPc := s.faultPc
  progEnd := s.progEnd
  waitX   := s.waitX
  event   := s.event

/-- A run has ended exactly when `ES = Halted` (R298). -/
def State.ended (s : State) : Bool := decide (s.es = .halted)

/-- The end was no clean one: `FAULT != None` (R260, R298). -/
def State.failed (s : State) : Bool := decide (s.fault ≠ .none)

end Sys2Proof.Machine
end

