-- ==== Sys2Proof/Machine/Step.lean ====
section
/-! DEFINITION. One step of the machine (R14, R122), and where its instruction is placed. -/
namespace Sys2Proof.Machine

/-- One `step`: the step cycle of Machine/Cycle.lean. -/
def step (s : State) : Host.Outcome State Fault Refusal := cycle s

/-- The state with an instruction, numbered as spec/opcode_table.json numbers it, stored where the next step
fetches. Log entry 6. -/
def State.withFetchWord (s : State) (nbits w : Nat) : State := s.placeWord (tableWord nbits w)

end Sys2Proof.Machine
end

