-- ==== Sys2Proof/Safety.lean ====
section
/-! DEFINITION. The terms claims are stated in: frames (what an instruction leaves unchanged), the invariant of
every reachable state, the values after reset, what the next step executes, and the cells a sprite covers. -/
namespace Sys2Proof.Machine

/-! ### Frames -/

/-- The pieces of state (R20, and the model's own four). -/
inductive Part where
  | mem | v | i | pc | stack | sp | dt | st | keys | fb | dirty | es | fault | faultPc | progEnd | waitX
  | straps | draws | event
deriving DecidableEq, Repr

/-- Two states agree on a piece of state. Registers, stack slots, keys, cells and memory bytes are compared one
by one, through the model's own reads. -/
def State.same (s t : State) : Part → Prop
  | .mem => ∀ a : Nat, t.readByte a = s.readByte a
  | .v => ∀ r : Reg, t.reg r = s.reg r
  | .i => t.i = s.i
  | .pc => t.pc = s.pc
  | .stack => ∀ j : Fin 16, t.stack[j] = s.stack[j]
  | .sp => t.sp = s.sp
  | .dt => t.dt = s.dt
  | .st => t.st = s.st
  | .keys => ∀ k : Fin 16, t.key k = s.key k
  | .fb => ∀ (r : Fin 32) (c : Fin 64), t.pixel r c = s.pixel r c
  | .dirty => t.dirty = s.dirty
  | .es => t.es = s.es
  | .fault => t.fault = s.fault
  | .faultPc => t.faultPc = s.faultPc
  | .progEnd => t.progEnd = s.progEnd
  | .waitX => t.waitX = s.waitX
  | .straps => t.straps = s.straps
  | .draws => t.draws = s.draws
  | .event => t.event = s.event

/-- From `s` to `t` every piece of state but those listed is unchanged. -/
def OnlyChanges (ps : List Part) (s t : State) : Prop := ∀ p : Part, p ∉ ps → s.same t p

/-- The two states agree on every piece of state listed. -/
def Agree (ps : List Part) (s t : State) : Prop := ∀ p : Part, p ∈ ps → s.same t p

/-- Every general register but those listed is unchanged. -/
def RegsExcept (rs : List Reg) (s t : State) : Prop := ∀ r : Reg, r ∉ rs → t.reg r = s.reg r

/-- A memory byte outside the `cnt` bytes at `a` is unchanged. -/
def BytesOutside (a cnt : Nat) (s t : State) : Prop :=
  ∀ b : Nat, ¬ (a ≤ b ∧ b < a + cnt) → t.readByte b = s.readByte b

/-- `t` is the fatal-fault entry with cause `c` from `s` (R256). -/
def FaultEntry (c : Cause) (s t : State) : Prop :=
  t.es = .halted ∧ t.fault = c ∧ t.faultPc = s.pc ∧ OnlyChanges [.es, .fault, .faultPc] s t

/-- What a program can find out about, if only in the end: registers, `I`, `PC`, stack, `DT`, keys, screen, memory,
and what the model adds for the straps and the random source. `ST`, `DIRTY`, `ES`, `FAULT`, `FAULT_PC`,
`PROG_END`, `WAIT_X` and the diagnostic output are left out (R29, R34 to R40). -/
def programVisible : List Part := [.mem, .v, .i, .pc, .stack, .sp, .dt, .keys, .fb, .straps, .draws]

/-! ### What the next step does -/

/-- The word at `PC` (R70). -/
def State.wordAtPc (s : State) : Word := wordOfBytes (s.readByte s.pc.toNat) (s.readByte (s.pc.toNat + 1))

/-- The next step fetches a word: `Ready` or `Running`, before the end of the program, the fetch in bounds (R122,
R124, R67). -/
def State.fetches (s : State) : Prop :=
  (s.es = .ready ∨ s.es = .running) ∧ s.pc.toNat < s.progEnd.toNat ∧ s.pc.toNat + 1 ≤ 0xFFF

/-- The next step executes the instruction `i`. -/
def State.executes (s : State) (i : Instr) : Prop := s.fetches ∧ decodeWord s.wordAtPc = .ok i

/-- The instructions that write VF as a flag (R22). -/
def writesFlag : Instr → Bool
  | .addVy _ _ | .sub _ _ | .shr _ _ | .subn _ _ | .shl _ _ | .drw _ _ _ => true
  | .cls | .ret | .jp _ | .call _ | .seKk _ _ | .sneKk _ _ | .seVy _ _ | .ldKk _ _ | .addKk _ _ | .ldVy _ _
  | .orVy _ _ | .andVy _ _ | .xorVy _ _ | .sneVy _ _ | .ldI _ | .jpV0 _ | .rnd _ _ | .skp _ | .sknp _
  | .ldVxDt _ | .ldVxK _ | .ldDtVx _ | .ldStVx _ | .addI _ | .ldF _ | .ldB _ | .ldMemVx _ | .ldVxMem _ => false

/-- The register an instruction writes as an ordinary destination (R162 to R167, R176, R196, R236, R238); Fx65
writes it and every register below it. -/
def destination : Instr → Option Reg
  | .ldKk x _ | .addKk x _ | .ldVy x _ | .orVy x _ | .andVy x _ | .xorVy x _ | .addVy x _ | .sub x _ | .shr x _
  | .subn x _ | .shl x _ | .rnd x _ | .ldVxDt x | .ldVxK x | .ldVxMem x => some x
  | .cls | .ret | .jp _ | .call _ | .seKk _ _ | .sneKk _ _ | .seVy _ _ | .sneVy _ _ | .ldI _ | .jpV0 _
  | .drw _ _ _ | .skp _ | .sknp _ | .ldDtVx _ | .ldStVx _ | .addI _ | .ldF _ | .ldB _ | .ldMemVx _ => none

/-! ### Reset -/

/-- Every piece of state of R20 has its value of the table of R55. -/
structure ResetValues (t : State) : Prop where
  memZero : ∀ a : Nat, a < 0x1000 → ¬ (0x050 ≤ a ∧ a ≤ 0x09F) → t.readByte a = 0
  memFont : ∀ j : Fin 80, t.readByte (0x050 + j.val) = t.straps.font[j]
  v       : ∀ r : Reg, t.reg r = 0
  i       : t.i = 0
  pc      : t.pc = 0x200
  stack   : ∀ j : Fin 16, t.stack[j] = 0
  sp      : t.sp = 0
  dt      : t.dt = 0
  st      : t.st = 0
  keys    : ∀ k : Fin 16, t.key k = false
  fb      : ∀ (r : Fin 32) (c : Fin 64), t.pixel r c = false
  dirty   : t.dirty = false
  es      : t.es = .ready
  fault   : t.fault = .none
  faultPc : t.faultPc = 0
  progEnd : t.progEnd = 0x200
  waitX   : t.waitX = 0

/-! ### The invariant -/

/-- What holds of every state a run from reset reaches. -/
structure Sound (s : State) : Prop where
  /-- Memory keeps its canonical form. -/
  memCanonical : s.mem.wf s.straps.font
  /-- No cell below 0x200 differs from its reset content (R66). -/
  reservedKept : ∀ c ∈ s.mem, 0x200 ≤ c.1
  /-- `PROG_END` is 0x200 to 0x1000 (R38). -/
  progEndRange : 0x200 ≤ s.progEnd.toNat ∧ s.progEnd.toNat ≤ 0x1000
  /-- `PC` never wraps: the highest value is a Bnnn's (R26, R146). -/
  pcRange : s.pc.toNat ≤ 0x10FE
  /-- Return addresses are at most 0x1000 (R141). -/
  stackRange : ∀ j : Fin 16, s.stack[j].toNat ≤ 0x1000
  /-- The fault record: a cause only in `Halted`, with `FAULT_PC = PC`; else `FAULT_PC` is 0 (R36, R37). -/
  faultRecord : (s.fault = .none → s.faultPc = 0) ∧ (s.fault ≠ .none → s.es = .halted ∧ s.faultPc = s.pc)
  /-- While waiting, `PC` addresses the Fx0A that waits, and `WAIT_X` is its `x` (R39, R123). -/
  waiting : s.es = .waitingForKey →
    s.pc.toNat + 1 ≤ 0xFFF ∧ decodeWord s.wordAtPc = .ok (.ldVxK s.waitX)
  /-- In `Ready` nothing has been fetched: `PC` is the entry point (R35, R294). -/
  ready : s.es = .ready → s.pc = 0x200
  /-- The diagnostic output of the latest step is there only while `Running` (R128). -/
  eventRunning : s.event ≠ none → s.es = .running

/-! ### The screen -/

/-- A coordinate sum resolves to a position on its axis (R212): modulo the size with `wrap`, else the sum itself. -/
def LandsOn (wrap : Bool) (size sum pos : Nat) : Prop := if wrap then sum % size = pos else sum = pos

/-- Some set bit of the `n`-row sprite at `I`, drawn at (`V[x]`, `V[y]`), lands on the cell (R212, R213). -/
def SpriteCovers (s : State) (x y : Reg) (n : Nat) (r : Fin 32) (c : Fin 64) : Prop :=
  ∃ k j : Nat, k < n ∧ j < 8 ∧ (s.readByte (s.base + k)).getLsbD (7 - j) = true ∧
    LandsOn s.straps.wrapX 64 ((s.reg x).toNat + j) c.val ∧ LandsOn s.straps.wrapY 32 ((s.reg y).toNat + k) r.val

end Sys2Proof.Machine
end

