-- ==== Sys2Proof/Certificates/Slice0/Obligations.lean ====
section
/-! DEFINITION. The statements for the provers. Each docstring says which rule of the spec the statement
formalises, or that it is derived and from what. -/

open Sys2Proof Sys2Proof.Machine

/-! ### Reset and the host operations -/

/-- R55: after `reset`, issued in any state, and in the model's reset state, every piece of state has its value of the
table. -/
def Obligations.ResetGivesEveryValue : Prop :=
  ResetValues State.reset ∧
  ∀ s : State, ResetValues s.hostReset

/-- Derived: the state after reset meets the invariant, whatever the straps. -/
def Obligations.ResetMeetsSound : Prop :=
  Sound State.reset ∧ ∀ straps : Straps, Sound (State.resetWith straps)

/-- Derived: every host operation keeps the invariant. -/
def Obligations.HostOperationsKeepSound : Prop :=
  ∀ s : State, Sound s →
    Sound s.hostReset ∧ (∀ (k : Fin 16) (b : Bool), Sound (s.setKey k b)) ∧ Sound s.clearDirty ∧
    ∀ (bytes : List Byte) (t : State) (r : LoadResult), s.loadProgram bytes = .next (t, r) → Sound t

/-- R292, R293: `loadProgram` in `Ready`: at most 3584 bytes are copied verbatim from 0x200 up, `PROG_END` is set just
past them and nothing else changes; more bytes change nothing. -/
def Obligations.LoadProgramCopiesVerbatim : Prop :=
  ∀ (s : State) (bytes : List Byte), s.es = .ready →
    (bytes.length ≤ 3584 → ∃ t, s.loadProgram bytes = .next (t, .success) ∧
      (∀ (k : Nat) (h : k < bytes.length), t.readByte (0x200 + k) = bytes[k]) ∧
      BytesOutside 0x200 bytes.length s t ∧ t.progEnd.toNat = 0x200 + bytes.length ∧
      OnlyChanges [.mem, .progEnd] s t) ∧
    (3584 < bytes.length → s.loadProgram bytes = .next (s, .tooLong))

/-- Derived (R294): in any other engine state `loadProgram` has no meaning and is refused. -/
def Obligations.LoadProgramOnlyWhileReady : Prop :=
  ∀ (s : State) (bytes : List Byte), s.es ≠ .ready ↔ s.loadProgram bytes = .refused .loadNotReady

/-- Derived (R270, R271): `setKey` writes one key flag and `clearDirty` the dirty flag, and nothing else. -/
def Obligations.KeypadAndDisplayPorts : Prop :=
  ∀ s : State,
    (∀ (k : Fin 16) (b : Bool), (s.setKey k b).key k = b ∧ (∀ j, j ≠ k → (s.setKey k b).key j = s.key j) ∧
      OnlyChanges [.keys] s (s.setKey k b)) ∧
    s.clearDirty.dirty = false ∧ OnlyChanges [.dirty] s s.clearDirty

/-- Derived (R295, R70): after reset and a load of at least one instruction the first step fetches the first two bytes of
the program, as the number whose high byte is the first of them. -/
def Obligations.BootFetchesFirstWord : Prop :=
  ∀ (straps : Straps) (b0 b1 : Byte) (rest : List Byte), rest.length ≤ 3582 →
    ∃ t, (State.resetWith straps).loadProgram (b0 :: b1 :: rest) = .next (t, .success) ∧
      t.es = .ready ∧ t.fetches ∧ t.wordAtPc = wordOfBytes b0 b1 ∧
      t.wordAtPc.toNat = b0.toNat * 256 + b1.toNat

/-- Derived (log entry 6): a word placed by `withFetchWord` is what the next step executes, and every byte elsewhere,
register and piece of state the placing does not need is as before. -/
def Obligations.PlacedWordIsExecuted : Prop :=
  ∀ (s : State) (w : Word),
    (s.withFetchWord 16 w.toNat).fetches ∧ (s.withFetchWord 16 w.toNat).wordAtPc = w ∧
    BytesOutside (s.withFetchWord 16 w.toNat).pc.toNat 2 s (s.withFetchWord 16 w.toNat) ∧
    (s.pc.toNat ≤ 0xFFE → (s.withFetchWord 16 w.toNat).pc = s.pc) ∧
    OnlyChanges [.mem, .pc, .progEnd, .es] s (s.withFetchWord 16 w.toNat)

/-! ### Encoding -/

/-- Derived (R92, R100): decoding the canonical word of a well-formed instruction gives it back. -/
def Obligations.DecodeEncodeRoundTrip : Prop :=
  ∀ i : Instr, i.wellFormed = true → decodeWord (encode i) = .ok i

/-- Derived (R92 to R100): a decoded instruction is well formed, and its canonical word has every bit that decoding
examines. -/
def Obligations.EncodeDecodeKeepsExaminedBits : Prop :=
  ∀ (w : Word) (i : Instr), decodeWord w = .ok i → i.wellFormed = true ∧ encode i = w &&& i.examined

/-- R94 to R98: the two-level decode, the fields of the word as numbers (R11). -/
def Obligations.DecodeByFamilies : Prop :=
  ∀ (w : Word) (x y : Reg) (kk : Byte) (nnn : Addr),
    x.val = w.toNat / 256 % 16 → y.val = w.toNat / 16 % 16 → kk.toNat = w.toNat % 256 → nnn.toNat = w.toNat % 4096 →
    match w.toNat / 4096, w.toNat % 256, w.toNat % 16 with
    | 0x0, 0xE0, _ => decodeWord w = .ok .cls
    | 0x0, 0xEE, _ => decodeWord w = .ok .ret
    | 0x0, _, _ => decodeWord w = .error (.badOpcode w)
    | 0x1, _, _ => decodeWord w = .ok (.jp nnn)
    | 0x2, _, _ => decodeWord w = .ok (.call nnn)
    | 0x3, _, _ => decodeWord w = .ok (.seKk x kk)
    | 0x4, _, _ => decodeWord w = .ok (.sneKk x kk)
    | 0x5, _, _ => decodeWord w = .ok (.seVy x y)
    | 0x6, _, _ => decodeWord w = .ok (.ldKk x kk)
    | 0x7, _, _ => decodeWord w = .ok (.addKk x kk)
    | 0x8, _, 0x0 => decodeWord w = .ok (.ldVy x y)
    | 0x8, _, 0x1 => decodeWord w = .ok (.orVy x y)
    | 0x8, _, 0x2 => decodeWord w = .ok (.andVy x y)
    | 0x8, _, 0x3 => decodeWord w = .ok (.xorVy x y)
    | 0x8, _, 0x4 => decodeWord w = .ok (.addVy x y)
    | 0x8, _, 0x5 => decodeWord w = .ok (.sub x y)
    | 0x8, _, 0x6 => decodeWord w = .ok (.shr x y)
    | 0x8, _, 0x7 => decodeWord w = .ok (.subn x y)
    | 0x8, _, 0xE => decodeWord w = .ok (.shl x y)
    | 0x8, _, _ => decodeWord w = .error (.badOpcode w)
    | 0x9, _, _ => decodeWord w = .ok (.sneVy x y)
    | 0xA, _, _ => decodeWord w = .ok (.ldI nnn)
    | 0xB, _, _ => decodeWord w = .ok (.jpV0 nnn)
    | 0xC, _, _ => decodeWord w = .ok (.rnd x kk)
    | 0xD, _, n => decodeWord w = .ok (.drw x y n)
    | 0xE, 0x9E, _ => decodeWord w = .ok (.skp x)
    | 0xE, 0xA1, _ => decodeWord w = .ok (.sknp x)
    | 0xE, _, _ => decodeWord w = .error (.badOpcode w)
    | 0xF, 0x07, _ => decodeWord w = .ok (.ldVxDt x)
    | 0xF, 0x0A, _ => decodeWord w = .ok (.ldVxK x)
    | 0xF, 0x15, _ => decodeWord w = .ok (.ldDtVx x)
    | 0xF, 0x18, _ => decodeWord w = .ok (.ldStVx x)
    | 0xF, 0x1E, _ => decodeWord w = .ok (.addI x)
    | 0xF, 0x29, _ => decodeWord w = .ok (.ldF x)
    | 0xF, 0x33, _ => decodeWord w = .ok (.ldB x)
    | 0xF, 0x55, _ => decodeWord w = .ok (.ldMemVx x)
    | 0xF, 0x65, _ => decodeWord w = .ok (.ldVxMem x)
    | _, _, _ => decodeWord w = .error (.badOpcode w)

/-- Derived (R100, R104): the lines of the opcode map do not overlap, a word decodes to an instruction of the one line it
matches, and a word that matches none is the bad opcode. -/
def Obligations.OpcodeMapPartitionsWords : Prop :=
  (∀ (w : Word) (p q : OpcodeRow), p ∈ opcodeMap → q ∈ opcodeMap → p.hits w = true → q.hits w = true → p = q) ∧
  ∀ w : Word,
    (∀ i : Instr, decodeWord w = .ok i → i.row ∈ opcodeMap ∧ i.row.hits w = true) ∧
    (decodeWord w = .error (.badOpcode w) ↔ ∀ p ∈ opcodeMap, p.hits w = false)

/-- Derived (R100, R104): words written out from the spec's encodings, at least one of each of the sixteen families
(`w[15:12]`, R17), decode to what they stand for; two bad opcodes are refused. -/
def Obligations.SampleWordsDecode : Prop :=
  decodeTableWord 16 0x00E0 = some .cls ∧ decodeTableWord 16 0x00EE = some .ret ∧
  decodeTableWord 16 0x1234 = some (.jp 0x234) ∧ decodeTableWord 16 0x2345 = some (.call 0x345) ∧
  decodeTableWord 16 0x332A = some (.seKk 3 0x2A) ∧ decodeTableWord 16 0x432A = some (.sneKk 3 0x2A) ∧
  decodeTableWord 16 0x5120 = some (.seVy 1 2) ∧ decodeTableWord 16 0x6A05 = some (.ldKk 10 0x05) ∧
  decodeTableWord 16 0x7102 = some (.addKk 1 0x02) ∧ decodeTableWord 16 0x8124 = some (.addVy 1 2) ∧
  decodeTableWord 16 0x9120 = some (.sneVy 1 2) ∧ decodeTableWord 16 0xA2F0 = some (.ldI 0x2F0) ∧
  decodeTableWord 16 0xB304 = some (.jpV0 0x304) ∧ decodeTableWord 16 0xC30F = some (.rnd 3 0x0F) ∧ decodeTableWord 16 0xD012 = some (.drw 0 1 2) ∧
  decodeTableWord 16 0xE0A1 = some (.sknp 0) ∧ decodeTableWord 16 0xF30A = some (.ldVxK 3) ∧
  decodeTableWord 16 0xF155 = some (.ldMemVx 1) ∧ decodeTableWord 16 0x8128 = none ∧ decodeTableWord 16 0x0000 = none

/-! ### The step cycle -/

/-- Derived (R122, R125 to R127, R130): where the bytes at `PC` decode to an instruction and the fetch happens, the step
is the execute phase of that instruction on the state in `Running` with no diagnostic output, then the timer tick
unless it ended in `Halted`. -/
def Obligations.StepRunsDecodedInstruction : Prop :=
  ∀ (s : State) (i : Instr), s.executes i →
    ∃ t, exec i { s with es := .running, event := none } = .next t ∧
      step s = .next (if t.es = .halted then t else t.tick)

/-- R131: a step in `Halted` changes nothing and emits nothing. -/
def Obligations.StepWhileHalted : Prop :=
  ∀ s : State, s.es = .halted → ∃ t, step s = .next t ∧ t.event = none ∧ OnlyChanges [.event] s t

/-- R124: at or beyond `PROG_END` the engine halts cleanly, and nothing else changes. -/
def Obligations.CleanHaltAtProgramEnd : Prop :=
  ∀ s : State, s.es = .ready ∨ s.es = .running → s.progEnd.toNat ≤ s.pc.toNat →
    ∃ t, step s = .next t ∧ t.es = .halted ∧ t.event = none ∧ OnlyChanges [.es, .event] s t

/-- R123: the waiting step. With a key pressed the smallest one's index goes to `V[WAIT_X]`, `PC` advances by 2 and the
engine runs; with none it waits on; the timers tick in both cases. -/
def Obligations.WaitingStepPollsKeys : Prop :=
  ∀ s : State, s.es = .waitingForKey → ∃ t, step s = .next t ∧
    t.dt.toNat = s.dt.toNat - 1 ∧ t.st.toNat = s.st.toNat - 1 ∧ t.event = none ∧
    (∀ k : Fin 16, s.key k = true → (∀ j, j < k → s.key j = false) →
      (t.reg s.waitX).toNat = k.val ∧ RegsExcept [s.waitX] s t ∧ t.pc = s.pc + 2 ∧ t.es = .running ∧
      OnlyChanges [.v, .pc, .es, .dt, .st, .event] s t) ∧
    ((∀ k, s.key k = false) → OnlyChanges [.dt, .st, .event] s t)

/-- R128: a bad opcode emits the event with its address and word, advances `PC` by 2 and ticks the timers; nothing else
changes. -/
def Obligations.BadOpcodeIsSkipped : Prop :=
  ∀ s : State, s.fetches → decodeWord s.wordAtPc = .error (.badOpcode s.wordAtPc) →
    ∃ t, step s = .next t ∧ t.event = some ⟨s.pc, s.wordAtPc⟩ ∧ t.pc = s.pc + 2 ∧ t.es = .running ∧
      t.dt.toNat = s.dt.toNat - 1 ∧ t.st.toNat = s.st.toNat - 1 ∧
      OnlyChanges [.event, .pc, .es, .dt, .st] s t

/-- R256, R129: a step that raises a fatal fault changes `ES`, `FAULT` and `FAULT_PC` and nothing else: no timer tick, no
event, no partial effect. -/
def Obligations.FatalFaultChangesRecordOnly : Prop :=
  ∀ s t : State, step s = .next t → s.fault = .none → t.fault ≠ .none →
    t.es = .halted ∧ t.faultPc = s.pc ∧ t.event = none ∧ OnlyChanges [.es, .fault, .faultPc, .event] s t

/-- R251 to R254: which instruction raises which cause, and when; the fetch raises `MemBounds` alone. -/
def Obligations.FaultCausesByInstruction : Prop :=
  (Cause.none.code = 0 ∧ Cause.stackUnderflow.code = 1 ∧ Cause.stackOverflow.code = 2 ∧ Cause.memBounds.code = 3 ∧
    Cause.storeProtect.code = 4) ∧
  (∀ (i : Instr) (s : State), s.fault = .none → ∃ t, exec i s = .next t ∧
    (t.fault = .stackUnderflow ↔ i = .ret ∧ s.sp.val = 0) ∧
    (t.fault = .stackOverflow ↔ (∃ nnn, i = .call nnn) ∧ s.sp.val = 16) ∧
    (t.fault = .memBounds ↔
      (∃ x y n, i = .drw x y n ∧ 0 < n ∧ 0xFFF < s.i.toNat + n - 1) ∨
      (∃ x, i = .ldB x ∧ 0xFFF < s.i.toNat + 2) ∨
      (∃ x, (i = .ldMemVx x ∨ i = .ldVxMem x) ∧ 0xFFF < s.i.toNat + x.val)) ∧
    (t.fault = .storeProtect ↔ (∃ x, i = .ldB x ∨ i = .ldMemVx x) ∧ s.i.toNat < 0x200) ∧
    (t.fault ≠ .none → FaultEntry t.fault s t)) ∧
  ∀ s : State, (s.es = .ready ∨ s.es = .running) → s.pc.toNat < s.progEnd.toNat → 0xFFF < s.pc.toNat + 1 →
    ∃ t, step s = .next t ∧ t.es = .halted ∧ t.fault = .memBounds ∧ t.faultPc = s.pc ∧
      OnlyChanges [.es, .fault, .faultPc, .event] s t

/-- R121: the transitions of the engine state machine, each with its condition. -/
def Obligations.EngineTransitions : Prop :=
  (∀ s : State, s.hostReset.es = .ready) ∧
  (∀ (s t : State) (bytes : List Byte) (r : LoadResult), s.loadProgram bytes = .next (t, r) → t.es = s.es) ∧
  ∀ s t : State, step s = .next t →
    t.es ≠ .ready ∧
    (s.es = .halted → t.es = .halted) ∧
    (s.es = .waitingForKey → (t.es = .running ↔ ∃ k, s.key k = true) ∧ (t.es = .waitingForKey ↔ ∀ k, s.key k = false)) ∧
    (s.es = .ready ∨ s.es = .running → s.fault = .none →
      (t.es = .halted ↔ s.progEnd.toNat ≤ s.pc.toNat ∨ t.fault ≠ .none) ∧
      (s.progEnd.toNat ≤ s.pc.toNat → t.fault = .none) ∧
      (t.es = .waitingForKey ↔ (∃ x, s.executes (.ldVxK x)) ∧ ∀ k, s.key k = false))

/-- R130: which steps tick the timers, and by how much: after the instruction's own writes, each timer by one if it is not
zero, in every step that executes an instruction or a bad opcode and in every waiting step; not in a step that ends in
`Halted`. -/
def Obligations.TimersTickOncePerStep : Prop :=
  ∀ s t : State, step s = .next t →
    (t.es = .halted → t.dt = s.dt ∧ t.st = s.st) ∧
    (t.es ≠ .halted →
      ((∀ x, ¬ s.executes (.ldDtVx x)) → t.dt.toNat = s.dt.toNat - 1) ∧
      ((∀ x, ¬ s.executes (.ldStVx x)) → t.st.toNat = s.st.toNat - 1) ∧
      (∀ x, s.executes (.ldDtVx x) → t.dt.toNat = (s.reg x).toNat - 1) ∧
      (∀ x, s.executes (.ldStVx x) → t.st.toNat = (s.reg x).toNat - 1))

/-- Derived (R123, R130, R236): with no key pressed, `m` waiting steps change nothing but the timers, which count down by
`m` and stop at zero. -/
def Obligations.LongWaitOnlyCountsDown : Prop :=
  ∀ (m : Nat) (s : State), s.es = .waitingForKey → (∀ k, s.key k = false) →
    ∃ t : State, Sys2Proof.core.run m s = .next t ∧ t.dt.toNat = s.dt.toNat - m ∧ t.st.toNat = s.st.toNat - m ∧
      OnlyChanges [.dt, .st, .event] s t

/-- Derived (R131, R298): once halted, a run of any length leaves the state as it is. -/
def Obligations.HaltedRunIsConstant : Prop :=
  ∀ (m : Nat) (s : State), s.es = .halted → s.event = none → Sys2Proof.core.run m s = .next s

/-! ### Whole-machine rules -/

/-- The invariant of Safety.lean is kept by every step: memory stays canonical and its reserved region untouched,
`PROG_END`, `PC` and the stack stay in range, the fault record agrees with `ES`, and a waiting engine stands on its
Fx0A. Derived (R26, R36 to R39, R66, R141). -/
def Obligations.StepKeepsSound : Prop :=
  ∀ s t : State, Sound s → step s = .next t → Sound t

/-- Derived (R62, R66): no instruction but Fx33 and Fx55 changes memory, and no step writes below 0x200. -/
def Obligations.MemoryWritersAndReservedRegion : Prop :=
  (∀ (i : Instr) (s t : State), exec i s = .next t → (∀ x, i ≠ .ldB x ∧ i ≠ .ldMemVx x) → s.same t .mem) ∧
  ∀ s t : State, step s = .next t → ∀ a : Nat, a < 0x200 → t.readByte a = s.readByte a

/-- Derived (R32, R38, R41, R52): a step never changes the keys, the end of the program or the straps. -/
def Obligations.HostOwnedStateIsKept : Prop :=
  ∀ s t : State, step s = .next t → s.same t .keys ∧ t.progEnd = s.progEnd ∧ t.straps = s.straps

/-- Derived (R33, R34, R210): a step that executes no 00E0 and no Dxyn changes neither the framebuffer nor the dirty
flag; a step never clears the dirty flag, and one that changes a cell sets it. -/
def Obligations.ScreenChangesMarkDirty : Prop :=
  ∀ s t : State, step s = .next t →
    ((¬ s.executes .cls ∧ ∀ x y n, ¬ s.executes (.drw x y n)) → s.same t .fb ∧ t.dirty = s.dirty) ∧
    (s.dirty = true → t.dirty = true) ∧ (t.dirty = false → s.same t .fb)

/-- Derived (R27): only 2nnn writes the stack and only 2nnn and 00EE move `SP`, by one. -/
def Obligations.StackWritersOnly : Prop :=
  ∀ (i : Instr) (s t : State), exec i s = .next t →
    ((∀ nnn, i ≠ .call nnn) → s.same t .stack) ∧
    ((∀ nnn, i ≠ .call nnn) → i ≠ .ret → t.sp = s.sp) ∧
    ((∃ nnn, i = .call nnn) → t.sp.val = s.sp.val + 1 ∨ t.sp = s.sp) ∧
    (i = .ret → t.sp.val + 1 = s.sp.val ∨ t.sp = s.sp)

/-- Derived (R197): `I` passes 0xFFF by Fx1E alone. -/
def Obligations.IndexPassesTopByAddOnly : Prop :=
  ∀ (i : Instr) (s t : State), exec i s = .next t → s.i.toNat ≤ 0xFFF → 0xFFF < t.i.toNat → ∃ x, i = .addI x

/-- Derived (R22, R23): an instruction of the flag-writing six that completes leaves 0 or 1 in VF, also when VF is its
destination; every other instruction leaves VF alone unless VF is its ordinary destination. -/
def Obligations.FlagWritersOnly : Prop :=
  ∀ (i : Instr) (s t : State), exec i s = .next t →
    (writesFlag i = true → s.es ≠ .halted → t.es ≠ .halted → t.reg VF = 0 ∨ t.reg VF = 1) ∧
    (writesFlag i = false → destination i ≠ some VF → t.reg VF = s.reg VF)

/-- Derived (R29, R34 to R40, R237): what no instruction reads a program cannot learn. Two states that agree on
everything but `ST`, `DIRTY`, `ES`, the fault record, `PROG_END`, `WAIT_X` and the diagnostic output are taken by
every instruction to states that agree so again. -/
def Obligations.HiddenStateStaysHidden : Prop :=
  ∀ (i : Instr) (s s' t : State), Agree programVisible s s' → exec i s = .next t →
    ∃ t', exec i s' = .next t' ∧ Agree programVisible t t'

/-- Derived (R8, R132, R176; the counter `draws` is the model's own, log entry 2): an instruction other than Cxkk neither
consumes a draw nor depends on which draw comes next. -/
def Obligations.OnlyRndUsesTheDraw : Prop :=
  ∀ (i : Instr) (s t : State) (k : Nat), (∀ x kk, i ≠ .rnd x kk) → exec i s = .next t →
    t.draws = s.draws ∧ exec i { s with draws := k } = .next { t with draws := k }

/-- Derived (R80): what an Fx55 stored is what a later fetch at its addresses reads. -/
def Obligations.StoredCodeIsFetched : Prop :=
  ∀ (x : Reg) (s : State) (k : Fin 15), k.val < x.val → 0x200 ≤ s.i.toNat → s.i.toNat + x.val ≤ 0xFFF →
    ∃ t, exec (.ldMemVx x) s = .next t ∧
      { t with pc := s.i + BitVec.ofNat 16 k.val }.wordAtPc =
        wordOfBytes (s.reg ⟨k.val, by omega⟩) (s.reg ⟨k.val + 1, by omega⟩)

/-! ### Control transfer -/

/-- R142, R146: the jumps. -/
def Obligations.JumpsSetThePc : Prop :=
  ∀ (nnn : Addr) (s : State),
    Instr.EncodedAs (.jp nnn) 0x1000 0xF000 ∧
    Instr.EncodedAs (.jpV0 nnn) 0xB000 0xF000 ∧
    (∃ t, exec (.jp nnn) s = .next t ∧ t.pc.toNat = nnn.toNat ∧ OnlyChanges [.pc] s t) ∧
    (∃ t, exec (.jpV0 nnn) s = .next t ∧ t.pc.toNat = nnn.toNat + (s.reg 0).toNat ∧ OnlyChanges [.pc] s t)

/-- R143: the call pushes `PC + 2` and jumps; with the stack full it raises `StackOverflow`. -/
def Obligations.CallPushesReturnAddress : Prop :=
  ∀ (nnn : Addr) (s : State),
    Instr.EncodedAs (.call nnn) 0x2000 0xF000 ∧
    (∀ h : s.sp.val < 16, ∃ t, exec (.call nnn) s = .next t ∧ t.stack[s.sp.val] = s.pc + 2 ∧
      (∀ j : Fin 16, j.val ≠ s.sp.val → t.stack[j] = s.stack[j]) ∧ t.sp.val = s.sp.val + 1 ∧
      t.pc.toNat = nnn.toNat ∧ OnlyChanges [.stack, .sp, .pc] s t) ∧
    (s.sp.val = 16 → ∃ t, exec (.call nnn) s = .next t ∧ FaultEntry .stackOverflow s t)

/-- R141: the return pops into `PC` and keeps the slot; with the stack empty it raises `StackUnderflow`. -/
def Obligations.ReturnPopsIntoPc : Prop :=
  ∀ s : State,
    Instr.EncodedAs .ret 0x00EE 0xF0FF ∧
    (∀ j : Fin 16, s.sp.val = j.val + 1 → ∃ t, exec .ret s = .next t ∧ t.sp.val = j.val ∧ t.pc = s.stack[j] ∧
      OnlyChanges [.sp, .pc] s t) ∧
    (s.sp.val = 0 → ∃ t, exec .ret s = .next t ∧ FaultEntry .stackUnderflow s t)

/-- Derived (R141, R143, R151): a return from a state that has the stack a call left goes to the instruction after the
call, and the stack is as deep as before. -/
def Obligations.ReturnUndoesCall : Prop :=
  ∀ (nnn : Addr) (s t u : State), s.sp.val < 16 → exec (.call nnn) s = .next t →
    t.same u .stack → u.sp = t.sp →
    ∃ r, exec .ret u = .next r ∧ r.pc = s.pc + 2 ∧ r.sp = s.sp

/-- R147 to R150: the skips on registers move `PC` by 4 if their comparison holds, else by 2, and change nothing else. -/
def Obligations.RegisterSkips : Prop :=
  ∀ (x y : Reg) (kk : Byte) (s : State),
    Instr.EncodedAs (.seKk x kk) 0x3000 0xF000 ∧
    Instr.EncodedAs (.sneKk x kk) 0x4000 0xF000 ∧
    Instr.EncodedAs (.seVy x y) 0x5000 0xF000 ∧
    Instr.EncodedAs (.sneVy x y) 0x9000 0xF000 ∧
    (∃ t, exec (.seKk x kk) s = .next t ∧ OnlyChanges [.pc] s t ∧
      (s.reg x = kk → t.pc = s.pc + 4) ∧ (s.reg x ≠ kk → t.pc = s.pc + 2)) ∧
    (∃ t, exec (.sneKk x kk) s = .next t ∧ OnlyChanges [.pc] s t ∧
      (s.reg x ≠ kk → t.pc = s.pc + 4) ∧ (s.reg x = kk → t.pc = s.pc + 2)) ∧
    (∃ t, exec (.seVy x y) s = .next t ∧ OnlyChanges [.pc] s t ∧
      (s.reg x = s.reg y → t.pc = s.pc + 4) ∧ (s.reg x ≠ s.reg y → t.pc = s.pc + 2)) ∧
    (∃ t, exec (.sneVy x y) s = .next t ∧ OnlyChanges [.pc] s t ∧
      (s.reg x ≠ s.reg y → t.pc = s.pc + 4) ∧ (s.reg x = s.reg y → t.pc = s.pc + 2))

/-! ### Register load and ALU -/

/-- R162 to R164: the loads and the immediate add: no flag, nothing but `V[x]` and `PC`. -/
def Obligations.LoadsAndImmediateAdd : Prop :=
  ∀ (x y : Reg) (kk : Byte) (s : State),
    Instr.EncodedAs (.ldKk x kk) 0x6000 0xF000 ∧
    Instr.EncodedAs (.addKk x kk) 0x7000 0xF000 ∧
    Instr.EncodedAs (.ldVy x y) 0x8000 0xF00F ∧
    (∃ t, exec (.ldKk x kk) s = .next t ∧ t.reg x = kk ∧ RegsExcept [x] s t ∧ t.pc = s.pc + 2 ∧
      OnlyChanges [.v, .pc] s t) ∧
    (∃ t, exec (.addKk x kk) s = .next t ∧ (t.reg x).toNat = ((s.reg x).toNat + kk.toNat) % 256 ∧
      RegsExcept [x] s t ∧ t.pc = s.pc + 2 ∧ OnlyChanges [.v, .pc] s t) ∧
    (∃ t, exec (.ldVy x y) s = .next t ∧ t.reg x = s.reg y ∧ RegsExcept [x] s t ∧ t.pc = s.pc + 2 ∧
      OnlyChanges [.v, .pc] s t)

/-- R165 to R167: the logic operations, bit by bit; VF is not written. -/
def Obligations.LogicOperations : Prop :=
  ∀ (x y : Reg) (s : State),
    Instr.EncodedAs (.orVy x y) 0x8001 0xF00F ∧
    Instr.EncodedAs (.andVy x y) 0x8002 0xF00F ∧
    Instr.EncodedAs (.xorVy x y) 0x8003 0xF00F ∧
    (∃ t, exec (.orVy x y) s = .next t ∧
      (∀ b : Nat, (t.reg x).getLsbD b = ((s.reg x).getLsbD b || (s.reg y).getLsbD b)) ∧
      RegsExcept [x] s t ∧ t.pc = s.pc + 2 ∧ OnlyChanges [.v, .pc] s t) ∧
    (∃ t, exec (.andVy x y) s = .next t ∧
      (∀ b : Nat, (t.reg x).getLsbD b = ((s.reg x).getLsbD b && (s.reg y).getLsbD b)) ∧
      RegsExcept [x] s t ∧ t.pc = s.pc + 2 ∧ OnlyChanges [.v, .pc] s t) ∧
    (∃ t, exec (.xorVy x y) s = .next t ∧
      (∀ b : Nat, (t.reg x).getLsbD b = ((s.reg x).getLsbD b ^^ (s.reg y).getLsbD b)) ∧
      RegsExcept [x] s t ∧ t.pc = s.pc + 2 ∧ OnlyChanges [.v, .pc] s t)

/-- R168: the register add: sum modulo 256, then VF the carry; with `x = F` VF holds the carry. -/
def Obligations.AddSetsCarry : Prop :=
  ∀ (x y : Reg) (s : State),
    Instr.EncodedAs (.addVy x y) 0x8004 0xF00F ∧
    ∃ t, exec (.addVy x y) s = .next t ∧
    (x ≠ VF → (t.reg x).toNat = ((s.reg x).toNat + (s.reg y).toNat) % 256) ∧
    (255 < (s.reg x).toNat + (s.reg y).toNat → t.reg VF = 1) ∧
    ((s.reg x).toNat + (s.reg y).toNat ≤ 255 → t.reg VF = 0) ∧
    RegsExcept [x, VF] s t ∧ t.pc = s.pc + 2 ∧ OnlyChanges [.v, .pc] s t

/-- R169, R171: the subtractions modulo 256, VF the absence of borrow. -/
def Obligations.SubtractionsSetNoBorrow : Prop :=
  ∀ (x y : Reg) (s : State),
    Instr.EncodedAs (.sub x y) 0x8005 0xF00F ∧
    Instr.EncodedAs (.subn x y) 0x8007 0xF00F ∧
    (∃ t, exec (.sub x y) s = .next t ∧
      (x ≠ VF → (t.reg x).toNat = ((s.reg x).toNat + 256 - (s.reg y).toNat) % 256) ∧
      ((s.reg y).toNat ≤ (s.reg x).toNat → t.reg VF = 1) ∧ ((s.reg x).toNat < (s.reg y).toNat → t.reg VF = 0) ∧
      RegsExcept [x, VF] s t ∧ t.pc = s.pc + 2 ∧ OnlyChanges [.v, .pc] s t) ∧
    (∃ t, exec (.subn x y) s = .next t ∧
      (x ≠ VF → (t.reg x).toNat = ((s.reg y).toNat + 256 - (s.reg x).toNat) % 256) ∧
      ((s.reg x).toNat ≤ (s.reg y).toNat → t.reg VF = 1) ∧ ((s.reg y).toNat < (s.reg x).toNat → t.reg VF = 0) ∧
      RegsExcept [x, VF] s t ∧ t.pc = s.pc + 2 ∧ OnlyChanges [.v, .pc] s t)

/-- R170, R172: the shifts of `V[x]` by one, VF the bit shifted out; the field `y` has no part in it. -/
def Obligations.ShiftsByOne : Prop :=
  ∀ (x y : Reg) (s : State),
    Instr.EncodedAs (.shr x y) 0x8006 0xF00F ∧
    Instr.EncodedAs (.shl x y) 0x800E 0xF00F ∧
    (∃ t, exec (.shr x y) s = .next t ∧ (x ≠ VF → (t.reg x).toNat = (s.reg x).toNat / 2) ∧
      (t.reg VF).toNat = (s.reg x).toNat % 2 ∧ RegsExcept [x, VF] s t ∧ t.pc = s.pc + 2 ∧
      OnlyChanges [.v, .pc] s t) ∧
    (∃ t, exec (.shl x y) s = .next t ∧ (x ≠ VF → (t.reg x).toNat = 2 * (s.reg x).toNat % 256) ∧
      (t.reg VF).toNat = (s.reg x).toNat / 128 ∧ RegsExcept [x, VF] s t ∧ t.pc = s.pc + 2 ∧
      OnlyChanges [.v, .pc] s t)

/-- Derived (R168 to R172, as R179 infers from them): the arithmetic identities, for `x` other than F. -/
def Obligations.ArithmeticIdentities : Prop :=
  ∀ (x y : Reg) (s t : State), x ≠ VF →
    (exec (.addVy x y) s = .next t →
      (t.reg x).toNat + 256 * (t.reg VF).toNat = (s.reg x).toNat + (s.reg y).toNat) ∧
    (exec (.sub x y) s = .next t →
      ((t.reg x).toNat : Int) = (s.reg x).toNat - (s.reg y).toNat + 256 * (1 - (t.reg VF).toNat)) ∧
    (exec (.subn x y) s = .next t →
      ((t.reg x).toNat : Int) = (s.reg y).toNat - (s.reg x).toNat + 256 * (1 - (t.reg VF).toNat)) ∧
    (exec (.shr x y) s = .next t → 2 * (t.reg x).toNat + (t.reg VF).toNat = (s.reg x).toNat) ∧
    (exec (.shl x y) s = .next t → (t.reg x).toNat + 256 * (t.reg VF).toNat = 2 * (s.reg x).toNat)

/-- Derived (R8, R176): Cxkk completes in every state; `V[x]` is the next draw masked by `kk`, whatever that draw is, and
never has a bit that `kk` has clear. The model's own (log entry 2): the draws are free values numbered by the counter
`draws`, and Cxkk raises the counter by one, so that the next Cxkk consumes the draw after it. -/
def Obligations.RandomByteIsMasked : Prop :=
  ∀ (x : Reg) (kk : Byte) (s : State),
    Instr.EncodedAs (.rnd x kk) 0xC000 0xF000 ∧
    ∃ t, exec (.rnd x kk) s = .next t ∧
    t.reg x = Config.draw s.draws &&& kk ∧ (∀ b : Nat, kk.getLsbD b = false → (t.reg x).getLsbD b = false) ∧
    t.draws = s.draws + 1 ∧
    RegsExcept [x] s t ∧ t.pc = s.pc + 2 ∧ OnlyChanges [.v, .pc, .draws] s t

/-! ### Index register, loads and stores -/

/-- R191 to R193: the instructions that write `I`. -/
def Obligations.IndexRegisterWrites : Prop :=
  ∀ (nnn : Addr) (x : Reg) (s : State),
    Instr.EncodedAs (.ldI nnn) 0xA000 0xF000 ∧
    Instr.EncodedAs (.addI x) 0xF01E 0xF0FF ∧
    Instr.EncodedAs (.ldF x) 0xF029 0xF0FF ∧
    (∃ t, exec (.ldI nnn) s = .next t ∧ t.i.toNat = nnn.toNat ∧ t.pc = s.pc + 2 ∧ OnlyChanges [.i, .pc] s t) ∧
    (∃ t, exec (.addI x) s = .next t ∧ t.i.toNat = (s.i.toNat + (s.reg x).toNat) % 65536 ∧ t.pc = s.pc + 2 ∧
      OnlyChanges [.i, .pc] s t) ∧
    (∃ t, exec (.ldF x) s = .next t ∧ t.i.toNat = 0x050 + 5 * ((s.reg x).toNat % 16) ∧ t.pc = s.pc + 2 ∧
      OnlyChanges [.i, .pc] s t)

/-- R194: Fx33 stores the three decimal digits at `I`, or raises a fault and stores nothing. -/
def Obligations.StoreDecimalDigits : Prop :=
  ∀ (x : Reg) (s : State),
    Instr.EncodedAs (.ldB x) 0xF033 0xF0FF ∧
    (0x200 ≤ s.base → s.base + 2 ≤ 0xFFF → ∃ t, exec (.ldB x) s = .next t ∧
      (t.readByte s.base).toNat = (s.reg x).toNat / 100 ∧
      (t.readByte (s.base + 1)).toNat = (s.reg x).toNat / 10 % 10 ∧
      (t.readByte (s.base + 2)).toNat = (s.reg x).toNat % 10 ∧
      BytesOutside s.base 3 s t ∧ t.pc = s.pc + 2 ∧ OnlyChanges [.mem, .pc] s t) ∧
    (0xFFF < s.base + 2 → ∃ t, exec (.ldB x) s = .next t ∧ FaultEntry .memBounds s t) ∧
    (s.base < 0x200 → ∃ t, exec (.ldB x) s = .next t ∧ FaultEntry .storeProtect s t)

/-- R195: Fx55 stores `V[0]` to `V[x]` at `I`, or raises a fault and stores nothing. -/
def Obligations.StoreRegisters : Prop :=
  ∀ (x : Reg) (s : State),
    Instr.EncodedAs (.ldMemVx x) 0xF055 0xF0FF ∧
    (0x200 ≤ s.base → s.base + x.val ≤ 0xFFF → ∃ t, exec (.ldMemVx x) s = .next t ∧
      (∀ r : Reg, r ≤ x → t.readByte (s.base + r.val) = s.reg r) ∧
      BytesOutside s.base (x.val + 1) s t ∧ t.pc = s.pc + 2 ∧ OnlyChanges [.mem, .pc] s t) ∧
    (0xFFF < s.base + x.val → ∃ t, exec (.ldMemVx x) s = .next t ∧ FaultEntry .memBounds s t) ∧
    (s.base < 0x200 → ∃ t, exec (.ldMemVx x) s = .next t ∧ FaultEntry .storeProtect s t)

/-- R196: Fx65 loads `V[0]` to `V[x]` from `I`, or raises a fault and loads nothing. -/
def Obligations.LoadRegisters : Prop :=
  ∀ (x : Reg) (s : State),
    Instr.EncodedAs (.ldVxMem x) 0xF065 0xF0FF ∧
    (s.base + x.val ≤ 0xFFF → ∃ t, exec (.ldVxMem x) s = .next t ∧
      (∀ r : Reg, r ≤ x → t.reg r = s.readByte (s.base + r.val)) ∧ (∀ r : Reg, x < r → t.reg r = s.reg r) ∧
      t.pc = s.pc + 2 ∧ OnlyChanges [.v, .pc] s t) ∧
    (0xFFF < s.base + x.val → ∃ t, exec (.ldVxMem x) s = .next t ∧ FaultEntry .memBounds s t)

/-- Derived (R195, R196): Fx65 from the memory an Fx55 left, at the same `I`, restores the registers the Fx55 stored,
whatever they were set to in between. -/
def Obligations.StoreThenLoadRestores : Prop :=
  ∀ (x : Reg) (s t u : State), 0x200 ≤ s.base → s.base + x.val ≤ 0xFFF → exec (.ldMemVx x) s = .next t →
    t.same u .mem → u.i = s.i →
    ∃ w, exec (.ldVxMem x) u = .next w ∧ ∀ r : Reg, r ≤ x → w.reg r = s.reg r

/-! ### Display -/

/-- R211: 00E0 clears every cell and sets the dirty flag. -/
def Obligations.ClearScreen : Prop :=
  ∀ s : State,
    Instr.EncodedAs .cls 0x00E0 0xF0FF ∧
    ∃ t, exec .cls s = .next t ∧ (∀ r c, t.pixel r c = false) ∧ t.dirty = true ∧ t.pc = s.pc + 2 ∧
    OnlyChanges [.fb, .dirty, .pc] s t

/-- R212, R213: Dxyn inverts exactly the cells its set bits land on, and VF says whether one of them was 1; an access out
of bounds raises `MemBounds` and changes nothing. -/
def Obligations.DrawSprite : Prop :=
  ∀ (x y : Reg) (n : Nat) (s : State), n ≤ 15 →
    Instr.EncodedAs (.drw x y n) 0xD000 0xF000 ∧
    (n = 0 ∨ s.base + n - 1 ≤ 0xFFF → ∃ t, exec (.drw x y n) s = .next t ∧
      (∀ r c, (SpriteCovers s x y n r c → t.pixel r c = !s.pixel r c) ∧
        (¬ SpriteCovers s x y n r c → t.pixel r c = s.pixel r c)) ∧
      ((∃ r c, SpriteCovers s x y n r c ∧ s.pixel r c = true) → t.reg VF = 1) ∧
      ((∀ r c, SpriteCovers s x y n r c → s.pixel r c = false) → t.reg VF = 0) ∧
      t.dirty = true ∧ RegsExcept [VF] s t ∧ t.pc = s.pc + 2 ∧ OnlyChanges [.fb, .dirty, .v, .pc] s t) ∧
    (0 < n → 0xFFF < s.base + n - 1 → ∃ t, exec (.drw x y n) s = .next t ∧ FaultEntry .memBounds s t)

/-- Derived (R212 to R214, as R215 infers from them): a second Dxyn with the same `I`, coordinates, sprite
bytes and straps restores the framebuffer; what the two report. -/
def Obligations.DrawTwiceRestores : Prop :=
  ∀ (x y : Reg) (n : Nat) (s t s' : State), n ≤ 15 → (n = 0 ∨ s.base + n - 1 ≤ 0xFFF) →
    exec (.drw x y n) s = .next t → t.same s' .fb → s'.i = s.i → s'.straps = s.straps → s'.reg x = s.reg x →
    s'.reg y = s.reg y → (∀ k, k < n → s'.readByte (s.base + k) = s.readByte (s.base + k)) →
    ∃ t', exec (.drw x y n) s' = .next t' ∧ s.same t' .fb ∧
      ((∀ r c, SpriteCovers s x y n r c → s.pixel r c = false) → t.reg VF = 0 ∧
        ((∃ r c, SpriteCovers s x y n r c) → t'.reg VF = 1)) ∧
      ((∀ r c, ¬ SpriteCovers s x y n r c) → t.reg VF = 0 ∧ t'.reg VF = 0)

/-! ### Keypad and timers -/

/-- R230 to R232: the key skips test the key numbered by the low nibble of `V[x]`. -/
def Obligations.KeySkips : Prop :=
  ∀ (x : Reg) (k : Fin 16) (s : State), k.val = (s.reg x).toNat % 16 →
    Instr.EncodedAs (.skp x) 0xE09E 0xF0FF ∧
    Instr.EncodedAs (.sknp x) 0xE0A1 0xF0FF ∧
    (∃ t, exec (.skp x) s = .next t ∧ OnlyChanges [.pc] s t ∧
      (s.key k = true → t.pc = s.pc + 4) ∧ (s.key k = false → t.pc = s.pc + 2)) ∧
    (∃ t, exec (.sknp x) s = .next t ∧ OnlyChanges [.pc] s t ∧
      (s.key k = false → t.pc = s.pc + 4) ∧ (s.key k = true → t.pc = s.pc + 2))

/-- Derived (R236, of which this is the step that fetches; the later ones are R123): Fx0A takes
the smallest pressed key at once, or begins to wait with `PC` unchanged. -/
def Obligations.WaitForKey : Prop :=
  ∀ (x : Reg) (s : State),
    Instr.EncodedAs (.ldVxK x) 0xF00A 0xF0FF ∧
    (∀ k : Fin 16, s.key k = true → (∀ j, j < k → s.key j = false) → ∃ t, exec (.ldVxK x) s = .next t ∧
      (t.reg x).toNat = k.val ∧ RegsExcept [x] s t ∧ t.pc = s.pc + 2 ∧ OnlyChanges [.v, .pc] s t) ∧
    ((∀ k, s.key k = false) → ∃ t, exec (.ldVxK x) s = .next t ∧ t.waitX = x ∧ t.es = .waitingForKey ∧
      OnlyChanges [.waitX, .es] s t)

/-- R238 to R240: the timer instructions, in the execute phase, and with the tick of their own step. -/
def Obligations.TimerRegisters : Prop :=
  ∀ (x : Reg) (s : State),
    Instr.EncodedAs (.ldVxDt x) 0xF007 0xF0FF ∧
    Instr.EncodedAs (.ldDtVx x) 0xF015 0xF0FF ∧
    Instr.EncodedAs (.ldStVx x) 0xF018 0xF0FF ∧
    (∃ t, exec (.ldVxDt x) s = .next t ∧ t.reg x = s.dt ∧ RegsExcept [x] s t ∧ t.pc = s.pc + 2 ∧
      OnlyChanges [.v, .pc] s t) ∧
    (∃ t, exec (.ldDtVx x) s = .next t ∧ t.dt = s.reg x ∧ t.pc = s.pc + 2 ∧ OnlyChanges [.dt, .pc] s t) ∧
    (∃ t, exec (.ldStVx x) s = .next t ∧ t.st = s.reg x ∧ t.pc = s.pc + 2 ∧ OnlyChanges [.st, .pc] s t) ∧
    (s.executes (.ldVxDt x) → ∃ t, step s = .next t ∧ t.reg x = s.dt ∧ t.dt.toNat = s.dt.toNat - 1) ∧
    (s.executes (.ldDtVx x) → ∃ t, step s = .next t ∧ t.dt.toNat = (s.reg x).toNat - 1) ∧
    (s.executes (.ldStVx x) → ∃ t, step s = .next t ∧ t.st.toNat = (s.reg x).toNat - 1)
end

