-- ==== Sys2Proof/Laws/Decode.lean ====
section
/-! SUPPORT. The fields of a word as numbers, the fields of an encoded word, and a word's bytes. -/
namespace Sys2Proof

@[simp] theorem regOfBits_bitsOfReg (r : Reg) : regOfBits (bitsOfReg r) = r := rfl
@[simp] theorem bitsOfReg_regOfBits (b : BitVec 4) : bitsOfReg (regOfBits b) = b := rfl
@[simp] theorem bitsOfReg_toNat (r : Reg) : (bitsOfReg r).toNat = r.val := rfl

/-! ### Concatenation and slices as arithmetic -/

theorem append_toNat {m n : Nat} (a : BitVec m) (b : BitVec n) :
    (a ++ b).toNat = a.toNat * 2 ^ n + b.toNat := by
  rw [BitVec.toNat_append, ← Nat.shiftLeft_add_eq_or_of_lt b.isLt, Nat.shiftLeft_eq]

theorem wordOfBytes_toNat (b0 b1 : Byte) : (wordOfBytes b0 b1).toNat = b0.toNat * 256 + b1.toNat :=
  append_toNat b0 b1

theorem formatA_toNat (op : BitVec 4) (nnn : Addr) : (formatA op nnn).toNat = op.toNat * 4096 + nnn.toNat :=
  append_toNat op nnn

theorem formatI_toNat (op : BitVec 4) (x : Reg) (kk : Byte) :
    (formatI op x kk).toNat = (op.toNat * 16 + x.val) * 256 + kk.toNat :=
  (append_toNat (op ++ bitsOfReg x) kk).trans (by rw [append_toNat]; rfl)

theorem formatR_toNat (op : BitVec 4) (x y : Reg) (n : BitVec 4) :
    (formatR op x y n).toNat = ((op.toNat * 16 + x.val) * 16 + y.val) * 16 + n.toNat :=
  (append_toNat (op ++ bitsOfReg x ++ bitsOfReg y) n).trans (by rw [append_toNat, append_toNat]; rfl)

section Slices

variable (w : Word)

theorem opField_toNat : (opField w).toNat = w.toNat / 4096 := by
  simp [opField, Nat.shiftRight_eq_div_pow]
  omega
theorem xField_val : (xField w).val = w.toNat / 256 % 16 := by
  simp [xField, regOfBits, Nat.shiftRight_eq_div_pow]
theorem yField_val : (yField w).val = w.toNat / 16 % 16 := by
  simp [yField, regOfBits, Nat.shiftRight_eq_div_pow]
theorem nibbleField_toNat : (nibbleField w).toNat = w.toNat % 16 := by simp [nibbleField]
theorem nField_eq : nField w = w.toNat % 16 := nibbleField_toNat w
theorem kkField_toNat : (kkField w).toNat = w.toNat % 256 := by simp [kkField]
theorem nnnField_toNat : (nnnField w).toNat = w.toNat % 4096 := by simp [nnnField]
theorem highByte_toNat : (highByte w).toNat = w.toNat / 256 := by
  simp [highByte, Nat.shiftRight_eq_div_pow]
  omega
theorem lowByte_toNat : (lowByte w).toNat = w.toNat % 256 := by simp [lowByte]

end Slices

/-! ### A word and its bytes (R70) -/

@[simp] theorem wordOfBytes_bytes (w : Word) : wordOfBytes (highByte w) (lowByte w) = w :=
  BitVec.eq_of_toNat_eq (by rw [wordOfBytes_toNat, highByte_toNat, lowByte_toNat]; omega)

@[simp] theorem highByte_wordOfBytes (b0 b1 : Byte) : highByte (wordOfBytes b0 b1) = b0 :=
  BitVec.eq_of_toNat_eq (by rw [highByte_toNat, wordOfBytes_toNat]; omega)

@[simp] theorem lowByte_wordOfBytes (b0 b1 : Byte) : lowByte (wordOfBytes b0 b1) = b1 :=
  BitVec.eq_of_toNat_eq (by rw [lowByte_toNat, wordOfBytes_toNat]; omega)

theorem decodeBytes_bytesOfWord (w : Word) (rest : List Byte) :
    decodeBytes (bytesOfWord w ++ rest) = (decodeWord w).map fun i => (i, rest) := by
  simp only [bytesOfWord, List.cons_append, List.nil_append, decodeBytes, wordOfBytes_bytes]
  cases decodeWord w <;> rfl

/-! ### The fields of an encoded word -/

section Fields

variable (op n : BitVec 4) (nnn : Addr) (x y : Reg) (kk : Byte)

@[simp] theorem opField_formatA : opField (formatA op nnn) = op :=
  BitVec.eq_of_toNat_eq (by rw [opField_toNat, formatA_toNat]; omega)
@[simp] theorem nnnField_formatA : nnnField (formatA op nnn) = nnn :=
  BitVec.eq_of_toNat_eq (by rw [nnnField_toNat, formatA_toNat]; omega)
@[simp] theorem opField_formatI : opField (formatI op x kk) = op :=
  BitVec.eq_of_toNat_eq (by rw [opField_toNat, formatI_toNat]; omega)
@[simp] theorem xField_formatI : xField (formatI op x kk) = x :=
  Fin.ext (by rw [xField_val, formatI_toNat]; omega)
@[simp] theorem kkField_formatI : kkField (formatI op x kk) = kk :=
  BitVec.eq_of_toNat_eq (by rw [kkField_toNat, formatI_toNat]; omega)
@[simp] theorem opField_formatR : opField (formatR op x y n) = op :=
  BitVec.eq_of_toNat_eq (by rw [opField_toNat, formatR_toNat]; omega)
@[simp] theorem xField_formatR : xField (formatR op x y n) = x :=
  Fin.ext (by rw [xField_val, formatR_toNat]; omega)
@[simp] theorem yField_formatR : yField (formatR op x y n) = y :=
  Fin.ext (by rw [yField_val, formatR_toNat]; omega)
@[simp] theorem nibbleField_formatR : nibbleField (formatR op x y n) = n :=
  BitVec.eq_of_toNat_eq (by rw [nibbleField_toNat, formatR_toNat]; omega)

/-! ### An encoded word against its line's mask (R91, R100) -/

end Fields

theorem nat_and_F000 (a : Nat) (h : a < 65536) : a &&& 0xF000 = a / 4096 * 4096 := by
  have : a &&& 0xF000 = (a / 4096 &&& 15) <<< 12 := by
    refine Nat.eq_of_testBit_eq fun i => ?_
    rw [Nat.testBit_and, show (0xF000 : Nat) = 15 <<< 12 from rfl, Nat.testBit_shiftLeft, Nat.testBit_shiftLeft,
      Nat.testBit_and, show (4096 : Nat) = 2 ^ 12 from rfl, Nat.testBit_div_two_pow]
    by_cases hi : 12 ≤ i
    · simp [hi, Nat.sub_add_cancel hi]
    · simp [hi]
  rw [this, show (15 : Nat) = 2 ^ 4 - 1 from rfl, Nat.and_two_pow_sub_one_eq_mod, Nat.shiftLeft_eq]
  omega

theorem nat_and_low (a k : Nat) (h : a < 65536) (hk : k ≤ 12) :
    a &&& (0xF000 ||| (2 ^ k - 1)) = a / 4096 * 4096 + a % 2 ^ k := by
  have hlt : a % 2 ^ k < 2 ^ 12 :=
    Nat.lt_of_lt_of_le (Nat.mod_lt _ (Nat.two_pow_pos k)) (Nat.pow_le_pow_right (by decide) hk)
  rw [Nat.and_or_distrib_left, nat_and_F000 a h, Nat.and_two_pow_sub_one_eq_mod,
    show a / 4096 * 4096 = (a / 4096) <<< 12 from (Nat.shiftLeft_eq (a / 4096) 12).symm, Nat.shiftLeft_add_eq_or_of_lt hlt]

theorem and_F000_toNat (w : Word) : (w &&& 0xF000).toNat = w.toNat / 4096 * 4096 := nat_and_F000 _ w.isLt
theorem and_F00F_toNat (w : Word) : (w &&& 0xF00F).toNat = w.toNat / 4096 * 4096 + w.toNat % 16 :=
  nat_and_low _ 4 w.isLt (by decide)
theorem and_F0FF_toNat (w : Word) : (w &&& 0xF0FF).toNat = w.toNat / 4096 * 4096 + w.toNat % 256 :=
  nat_and_low _ 8 w.isLt (by decide)

theorem hits_of_toNat {r : OpcodeRow} {w : Word} (h : (w &&& r.mask).toNat = r.pattern.toNat) : r.hits w = true :=
  beq_iff_eq.mpr (BitVec.eq_of_toNat_eq h)

/-- A word that decodes to an instruction is one of the words of its line (R100). -/
theorem decodeWord_row {w : Word} {i : Instr} (h : decodeWord w = .ok i) : i.row.hits w = true := by
  have ho := opField_toNat w
  have hk := kkField_toNat w
  have hn := nibbleField_toNat w
  unfold decodeWord at h
  split at h <;> rename_i hop <;> try rw [hop] at ho
  case h_1 =>
    unfold decodeFamily0 at h
    split at h <;> rename_i hc <;> cases h <;> rw [hc] at hk <;>
      exact hits_of_toNat ((and_F0FF_toNat w).trans (by rw [← ho, ← hk]; rfl))
  case h_9 =>
    unfold decodeFamily8 at h
    split at h <;> rename_i hc <;> cases h <;> rw [hc] at hn <;>
      exact hits_of_toNat ((and_F00F_toNat w).trans (by rw [← ho, ← hn]; rfl))
  case h_15 =>
    unfold decodeFamilyE at h
    split at h <;> rename_i hc <;> cases h <;> rw [hc] at hk <;>
      exact hits_of_toNat ((and_F0FF_toNat w).trans (by rw [← ho, ← hk]; rfl))
  case h_16 =>
    have hF : (opField w).toNat = 15 := by
      rename_i h0 h1 h2 h3 h4 h5 h6 h7 h8 h9 hA hB hC hD hE
      clear ho hk hn h
      generalize opField w = o at *
      revert h0 h1 h2 h3 h4 h5 h6 h7 h8 h9 hA hB hC hD hE
      revert o
      decide
    unfold decodeFamilyF at h
    split at h <;> rename_i hc <;> cases h <;> rw [hc] at hk <;>
      exact hits_of_toNat ((and_F0FF_toNat w).trans (by rw [← ho, hF, ← hk]; rfl))
  all_goals
    cases h
    exact hits_of_toNat ((and_F000_toNat w).trans (by rw [← ho]; rfl))
end Sys2Proof
end

