-- ==== Sys2Proof/Laws/State.lean ====
section
/-! SUPPORT. One lemma per field per update of the state, each true by rfl, and what the reads of one register,
byte, key and cell give after an update. -/
namespace Sys2Proof.Machine.State

variable (s : State)

/-! `setReg` -/
@[simp] theorem setReg_mem (x : Reg) (b : Byte) : (s.setReg x b).mem = s.mem := rfl
@[simp] theorem setReg_v (x : Reg) (b : Byte) : (s.setReg x b).v = s.v.set x.val b := rfl
@[simp] theorem setReg_i (x : Reg) (b : Byte) : (s.setReg x b).i = s.i := rfl
@[simp] theorem setReg_pc (x : Reg) (b : Byte) : (s.setReg x b).pc = s.pc := rfl
@[simp] theorem setReg_stack (x : Reg) (b : Byte) : (s.setReg x b).stack = s.stack := rfl
@[simp] theorem setReg_sp (x : Reg) (b : Byte) : (s.setReg x b).sp = s.sp := rfl
@[simp] theorem setReg_dt (x : Reg) (b : Byte) : (s.setReg x b).dt = s.dt := rfl
@[simp] theorem setReg_st (x : Reg) (b : Byte) : (s.setReg x b).st = s.st := rfl
@[simp] theorem setReg_keys (x : Reg) (b : Byte) : (s.setReg x b).keys = s.keys := rfl
@[simp] theorem setReg_fb (x : Reg) (b : Byte) : (s.setReg x b).fb = s.fb := rfl
@[simp] theorem setReg_dirty (x : Reg) (b : Byte) : (s.setReg x b).dirty = s.dirty := rfl
@[simp] theorem setReg_es (x : Reg) (b : Byte) : (s.setReg x b).es = s.es := rfl
@[simp] theorem setReg_fault (x : Reg) (b : Byte) : (s.setReg x b).fault = s.fault := rfl
@[simp] theorem setReg_faultPc (x : Reg) (b : Byte) : (s.setReg x b).faultPc = s.faultPc := rfl
@[simp] theorem setReg_progEnd (x : Reg) (b : Byte) : (s.setReg x b).progEnd = s.progEnd := rfl
@[simp] theorem setReg_waitX (x : Reg) (b : Byte) : (s.setReg x b).waitX = s.waitX := rfl
@[simp] theorem setReg_straps (x : Reg) (b : Byte) : (s.setReg x b).straps = s.straps := rfl
@[simp] theorem setReg_draws (x : Reg) (b : Byte) : (s.setReg x b).draws = s.draws := rfl
@[simp] theorem setReg_event (x : Reg) (b : Byte) : (s.setReg x b).event = s.event := rfl

/-! `loadRegs` -/
@[simp] theorem loadRegs_mem (bs : List Byte) : (s.loadRegs bs).mem = s.mem := rfl
@[simp] theorem loadRegs_v (bs : List Byte) : (s.loadRegs bs).v = Vector.ofFn fun r : Fin 16 => bs.getD r.val s.v[r] := rfl
@[simp] theorem loadRegs_i (bs : List Byte) : (s.loadRegs bs).i = s.i := rfl
@[simp] theorem loadRegs_pc (bs : List Byte) : (s.loadRegs bs).pc = s.pc := rfl
@[simp] theorem loadRegs_stack (bs : List Byte) : (s.loadRegs bs).stack = s.stack := rfl
@[simp] theorem loadRegs_sp (bs : List Byte) : (s.loadRegs bs).sp = s.sp := rfl
@[simp] theorem loadRegs_dt (bs : List Byte) : (s.loadRegs bs).dt = s.dt := rfl
@[simp] theorem loadRegs_st (bs : List Byte) : (s.loadRegs bs).st = s.st := rfl
@[simp] theorem loadRegs_keys (bs : List Byte) : (s.loadRegs bs).keys = s.keys := rfl
@[simp] theorem loadRegs_fb (bs : List Byte) : (s.loadRegs bs).fb = s.fb := rfl
@[simp] theorem loadRegs_dirty (bs : List Byte) : (s.loadRegs bs).dirty = s.dirty := rfl
@[simp] theorem loadRegs_es (bs : List Byte) : (s.loadRegs bs).es = s.es := rfl
@[simp] theorem loadRegs_fault (bs : List Byte) : (s.loadRegs bs).fault = s.fault := rfl
@[simp] theorem loadRegs_faultPc (bs : List Byte) : (s.loadRegs bs).faultPc = s.faultPc := rfl
@[simp] theorem loadRegs_progEnd (bs : List Byte) : (s.loadRegs bs).progEnd = s.progEnd := rfl
@[simp] theorem loadRegs_waitX (bs : List Byte) : (s.loadRegs bs).waitX = s.waitX := rfl
@[simp] theorem loadRegs_straps (bs : List Byte) : (s.loadRegs bs).straps = s.straps := rfl
@[simp] theorem loadRegs_draws (bs : List Byte) : (s.loadRegs bs).draws = s.draws := rfl
@[simp] theorem loadRegs_event (bs : List Byte) : (s.loadRegs bs).event = s.event := rfl

/-! `setI` -/
@[simp] theorem setI_mem (a : Word) : (s.setI a).mem = s.mem := rfl
@[simp] theorem setI_v (a : Word) : (s.setI a).v = s.v := rfl
@[simp] theorem setI_i (a : Word) : (s.setI a).i = a := rfl
@[simp] theorem setI_pc (a : Word) : (s.setI a).pc = s.pc := rfl
@[simp] theorem setI_stack (a : Word) : (s.setI a).stack = s.stack := rfl
@[simp] theorem setI_sp (a : Word) : (s.setI a).sp = s.sp := rfl
@[simp] theorem setI_dt (a : Word) : (s.setI a).dt = s.dt := rfl
@[simp] theorem setI_st (a : Word) : (s.setI a).st = s.st := rfl
@[simp] theorem setI_keys (a : Word) : (s.setI a).keys = s.keys := rfl
@[simp] theorem setI_fb (a : Word) : (s.setI a).fb = s.fb := rfl
@[simp] theorem setI_dirty (a : Word) : (s.setI a).dirty = s.dirty := rfl
@[simp] theorem setI_es (a : Word) : (s.setI a).es = s.es := rfl
@[simp] theorem setI_fault (a : Word) : (s.setI a).fault = s.fault := rfl
@[simp] theorem setI_faultPc (a : Word) : (s.setI a).faultPc = s.faultPc := rfl
@[simp] theorem setI_progEnd (a : Word) : (s.setI a).progEnd = s.progEnd := rfl
@[simp] theorem setI_waitX (a : Word) : (s.setI a).waitX = s.waitX := rfl
@[simp] theorem setI_straps (a : Word) : (s.setI a).straps = s.straps := rfl
@[simp] theorem setI_draws (a : Word) : (s.setI a).draws = s.draws := rfl
@[simp] theorem setI_event (a : Word) : (s.setI a).event = s.event := rfl

/-! `setPc` -/
@[simp] theorem setPc_mem (a : Word) : (s.setPc a).mem = s.mem := rfl
@[simp] theorem setPc_v (a : Word) : (s.setPc a).v = s.v := rfl
@[simp] theorem setPc_i (a : Word) : (s.setPc a).i = s.i := rfl
@[simp] theorem setPc_pc (a : Word) : (s.setPc a).pc = a := rfl
@[simp] theorem setPc_stack (a : Word) : (s.setPc a).stack = s.stack := rfl
@[simp] theorem setPc_sp (a : Word) : (s.setPc a).sp = s.sp := rfl
@[simp] theorem setPc_dt (a : Word) : (s.setPc a).dt = s.dt := rfl
@[simp] theorem setPc_st (a : Word) : (s.setPc a).st = s.st := rfl
@[simp] theorem setPc_keys (a : Word) : (s.setPc a).keys = s.keys := rfl
@[simp] theorem setPc_fb (a : Word) : (s.setPc a).fb = s.fb := rfl
@[simp] theorem setPc_dirty (a : Word) : (s.setPc a).dirty = s.dirty := rfl
@[simp] theorem setPc_es (a : Word) : (s.setPc a).es = s.es := rfl
@[simp] theorem setPc_fault (a : Word) : (s.setPc a).fault = s.fault := rfl
@[simp] theorem setPc_faultPc (a : Word) : (s.setPc a).faultPc = s.faultPc := rfl
@[simp] theorem setPc_progEnd (a : Word) : (s.setPc a).progEnd = s.progEnd := rfl
@[simp] theorem setPc_waitX (a : Word) : (s.setPc a).waitX = s.waitX := rfl
@[simp] theorem setPc_straps (a : Word) : (s.setPc a).straps = s.straps := rfl
@[simp] theorem setPc_draws (a : Word) : (s.setPc a).draws = s.draws := rfl
@[simp] theorem setPc_event (a : Word) : (s.setPc a).event = s.event := rfl

/-! `advance` -/
@[simp] theorem advance_mem : s.advance.mem = s.mem := rfl
@[simp] theorem advance_v : s.advance.v = s.v := rfl
@[simp] theorem advance_i : s.advance.i = s.i := rfl
@[simp] theorem advance_pc : s.advance.pc = s.pc + 2 := rfl
@[simp] theorem advance_stack : s.advance.stack = s.stack := rfl
@[simp] theorem advance_sp : s.advance.sp = s.sp := rfl
@[simp] theorem advance_dt : s.advance.dt = s.dt := rfl
@[simp] theorem advance_st : s.advance.st = s.st := rfl
@[simp] theorem advance_keys : s.advance.keys = s.keys := rfl
@[simp] theorem advance_fb : s.advance.fb = s.fb := rfl
@[simp] theorem advance_dirty : s.advance.dirty = s.dirty := rfl
@[simp] theorem advance_es : s.advance.es = s.es := rfl
@[simp] theorem advance_fault : s.advance.fault = s.fault := rfl
@[simp] theorem advance_faultPc : s.advance.faultPc = s.faultPc := rfl
@[simp] theorem advance_progEnd : s.advance.progEnd = s.progEnd := rfl
@[simp] theorem advance_waitX : s.advance.waitX = s.waitX := rfl
@[simp] theorem advance_straps : s.advance.straps = s.straps := rfl
@[simp] theorem advance_draws : s.advance.draws = s.draws := rfl
@[simp] theorem advance_event : s.advance.event = s.event := rfl

/-! `skip` -/
@[simp] theorem skip_mem : s.skip.mem = s.mem := rfl
@[simp] theorem skip_v : s.skip.v = s.v := rfl
@[simp] theorem skip_i : s.skip.i = s.i := rfl
@[simp] theorem skip_pc : s.skip.pc = s.pc + 4 := rfl
@[simp] theorem skip_stack : s.skip.stack = s.stack := rfl
@[simp] theorem skip_sp : s.skip.sp = s.sp := rfl
@[simp] theorem skip_dt : s.skip.dt = s.dt := rfl
@[simp] theorem skip_st : s.skip.st = s.st := rfl
@[simp] theorem skip_keys : s.skip.keys = s.keys := rfl
@[simp] theorem skip_fb : s.skip.fb = s.fb := rfl
@[simp] theorem skip_dirty : s.skip.dirty = s.dirty := rfl
@[simp] theorem skip_es : s.skip.es = s.es := rfl
@[simp] theorem skip_fault : s.skip.fault = s.fault := rfl
@[simp] theorem skip_faultPc : s.skip.faultPc = s.faultPc := rfl
@[simp] theorem skip_progEnd : s.skip.progEnd = s.progEnd := rfl
@[simp] theorem skip_waitX : s.skip.waitX = s.waitX := rfl
@[simp] theorem skip_straps : s.skip.straps = s.straps := rfl
@[simp] theorem skip_draws : s.skip.draws = s.draws := rfl
@[simp] theorem skip_event : s.skip.event = s.event := rfl

/-! `setDt` -/
@[simp] theorem setDt_mem (b : Byte) : (s.setDt b).mem = s.mem := rfl
@[simp] theorem setDt_v (b : Byte) : (s.setDt b).v = s.v := rfl
@[simp] theorem setDt_i (b : Byte) : (s.setDt b).i = s.i := rfl
@[simp] theorem setDt_pc (b : Byte) : (s.setDt b).pc = s.pc := rfl
@[simp] theorem setDt_stack (b : Byte) : (s.setDt b).stack = s.stack := rfl
@[simp] theorem setDt_sp (b : Byte) : (s.setDt b).sp = s.sp := rfl
@[simp] theorem setDt_dt (b : Byte) : (s.setDt b).dt = b := rfl
@[simp] theorem setDt_st (b : Byte) : (s.setDt b).st = s.st := rfl
@[simp] theorem setDt_keys (b : Byte) : (s.setDt b).keys = s.keys := rfl
@[simp] theorem setDt_fb (b : Byte) : (s.setDt b).fb = s.fb := rfl
@[simp] theorem setDt_dirty (b : Byte) : (s.setDt b).dirty = s.dirty := rfl
@[simp] theorem setDt_es (b : Byte) : (s.setDt b).es = s.es := rfl
@[simp] theorem setDt_fault (b : Byte) : (s.setDt b).fault = s.fault := rfl
@[simp] theorem setDt_faultPc (b : Byte) : (s.setDt b).faultPc = s.faultPc := rfl
@[simp] theorem setDt_progEnd (b : Byte) : (s.setDt b).progEnd = s.progEnd := rfl
@[simp] theorem setDt_waitX (b : Byte) : (s.setDt b).waitX = s.waitX := rfl
@[simp] theorem setDt_straps (b : Byte) : (s.setDt b).straps = s.straps := rfl
@[simp] theorem setDt_draws (b : Byte) : (s.setDt b).draws = s.draws := rfl
@[simp] theorem setDt_event (b : Byte) : (s.setDt b).event = s.event := rfl

/-! `setSt` -/
@[simp] theorem setSt_mem (b : Byte) : (s.setSt b).mem = s.mem := rfl
@[simp] theorem setSt_v (b : Byte) : (s.setSt b).v = s.v := rfl
@[simp] theorem setSt_i (b : Byte) : (s.setSt b).i = s.i := rfl
@[simp] theorem setSt_pc (b : Byte) : (s.setSt b).pc = s.pc := rfl
@[simp] theorem setSt_stack (b : Byte) : (s.setSt b).stack = s.stack := rfl
@[simp] theorem setSt_sp (b : Byte) : (s.setSt b).sp = s.sp := rfl
@[simp] theorem setSt_dt (b : Byte) : (s.setSt b).dt = s.dt := rfl
@[simp] theorem setSt_st (b : Byte) : (s.setSt b).st = b := rfl
@[simp] theorem setSt_keys (b : Byte) : (s.setSt b).keys = s.keys := rfl
@[simp] theorem setSt_fb (b : Byte) : (s.setSt b).fb = s.fb := rfl
@[simp] theorem setSt_dirty (b : Byte) : (s.setSt b).dirty = s.dirty := rfl
@[simp] theorem setSt_es (b : Byte) : (s.setSt b).es = s.es := rfl
@[simp] theorem setSt_fault (b : Byte) : (s.setSt b).fault = s.fault := rfl
@[simp] theorem setSt_faultPc (b : Byte) : (s.setSt b).faultPc = s.faultPc := rfl
@[simp] theorem setSt_progEnd (b : Byte) : (s.setSt b).progEnd = s.progEnd := rfl
@[simp] theorem setSt_waitX (b : Byte) : (s.setSt b).waitX = s.waitX := rfl
@[simp] theorem setSt_straps (b : Byte) : (s.setSt b).straps = s.straps := rfl
@[simp] theorem setSt_draws (b : Byte) : (s.setSt b).draws = s.draws := rfl
@[simp] theorem setSt_event (b : Byte) : (s.setSt b).event = s.event := rfl

/-! `setScreen` -/
@[simp] theorem setScreen_mem (fb : Screen) : (s.setScreen fb).mem = s.mem := rfl
@[simp] theorem setScreen_v (fb : Screen) : (s.setScreen fb).v = s.v := rfl
@[simp] theorem setScreen_i (fb : Screen) : (s.setScreen fb).i = s.i := rfl
@[simp] theorem setScreen_pc (fb : Screen) : (s.setScreen fb).pc = s.pc := rfl
@[simp] theorem setScreen_stack (fb : Screen) : (s.setScreen fb).stack = s.stack := rfl
@[simp] theorem setScreen_sp (fb : Screen) : (s.setScreen fb).sp = s.sp := rfl
@[simp] theorem setScreen_dt (fb : Screen) : (s.setScreen fb).dt = s.dt := rfl
@[simp] theorem setScreen_st (fb : Screen) : (s.setScreen fb).st = s.st := rfl
@[simp] theorem setScreen_keys (fb : Screen) : (s.setScreen fb).keys = s.keys := rfl
@[simp] theorem setScreen_fb (fb : Screen) : (s.setScreen fb).fb = fb := rfl
@[simp] theorem setScreen_dirty (fb : Screen) : (s.setScreen fb).dirty = true := rfl
@[simp] theorem setScreen_es (fb : Screen) : (s.setScreen fb).es = s.es := rfl
@[simp] theorem setScreen_fault (fb : Screen) : (s.setScreen fb).fault = s.fault := rfl
@[simp] theorem setScreen_faultPc (fb : Screen) : (s.setScreen fb).faultPc = s.faultPc := rfl
@[simp] theorem setScreen_progEnd (fb : Screen) : (s.setScreen fb).progEnd = s.progEnd := rfl
@[simp] theorem setScreen_waitX (fb : Screen) : (s.setScreen fb).waitX = s.waitX := rfl
@[simp] theorem setScreen_straps (fb : Screen) : (s.setScreen fb).straps = s.straps := rfl
@[simp] theorem setScreen_draws (fb : Screen) : (s.setScreen fb).draws = s.draws := rfl
@[simp] theorem setScreen_event (fb : Screen) : (s.setScreen fb).event = s.event := rfl

/-! `beginWait` -/
@[simp] theorem beginWait_mem (x : Reg) : (s.beginWait x).mem = s.mem := rfl
@[simp] theorem beginWait_v (x : Reg) : (s.beginWait x).v = s.v := rfl
@[simp] theorem beginWait_i (x : Reg) : (s.beginWait x).i = s.i := rfl
@[simp] theorem beginWait_pc (x : Reg) : (s.beginWait x).pc = s.pc := rfl
@[simp] theorem beginWait_stack (x : Reg) : (s.beginWait x).stack = s.stack := rfl
@[simp] theorem beginWait_sp (x : Reg) : (s.beginWait x).sp = s.sp := rfl
@[simp] theorem beginWait_dt (x : Reg) : (s.beginWait x).dt = s.dt := rfl
@[simp] theorem beginWait_st (x : Reg) : (s.beginWait x).st = s.st := rfl
@[simp] theorem beginWait_keys (x : Reg) : (s.beginWait x).keys = s.keys := rfl
@[simp] theorem beginWait_fb (x : Reg) : (s.beginWait x).fb = s.fb := rfl
@[simp] theorem beginWait_dirty (x : Reg) : (s.beginWait x).dirty = s.dirty := rfl
@[simp] theorem beginWait_es (x : Reg) : (s.beginWait x).es = .waitingForKey := rfl
@[simp] theorem beginWait_fault (x : Reg) : (s.beginWait x).fault = s.fault := rfl
@[simp] theorem beginWait_faultPc (x : Reg) : (s.beginWait x).faultPc = s.faultPc := rfl
@[simp] theorem beginWait_progEnd (x : Reg) : (s.beginWait x).progEnd = s.progEnd := rfl
@[simp] theorem beginWait_waitX (x : Reg) : (s.beginWait x).waitX = x := rfl
@[simp] theorem beginWait_straps (x : Reg) : (s.beginWait x).straps = s.straps := rfl
@[simp] theorem beginWait_draws (x : Reg) : (s.beginWait x).draws = s.draws := rfl
@[simp] theorem beginWait_event (x : Reg) : (s.beginWait x).event = s.event := rfl

/-! `setEs` -/
@[simp] theorem setEs_mem (e : Engine) : (s.setEs e).mem = s.mem := rfl
@[simp] theorem setEs_v (e : Engine) : (s.setEs e).v = s.v := rfl
@[simp] theorem setEs_i (e : Engine) : (s.setEs e).i = s.i := rfl
@[simp] theorem setEs_pc (e : Engine) : (s.setEs e).pc = s.pc := rfl
@[simp] theorem setEs_stack (e : Engine) : (s.setEs e).stack = s.stack := rfl
@[simp] theorem setEs_sp (e : Engine) : (s.setEs e).sp = s.sp := rfl
@[simp] theorem setEs_dt (e : Engine) : (s.setEs e).dt = s.dt := rfl
@[simp] theorem setEs_st (e : Engine) : (s.setEs e).st = s.st := rfl
@[simp] theorem setEs_keys (e : Engine) : (s.setEs e).keys = s.keys := rfl
@[simp] theorem setEs_fb (e : Engine) : (s.setEs e).fb = s.fb := rfl
@[simp] theorem setEs_dirty (e : Engine) : (s.setEs e).dirty = s.dirty := rfl
@[simp] theorem setEs_es (e : Engine) : (s.setEs e).es = e := rfl
@[simp] theorem setEs_fault (e : Engine) : (s.setEs e).fault = s.fault := rfl
@[simp] theorem setEs_faultPc (e : Engine) : (s.setEs e).faultPc = s.faultPc := rfl
@[simp] theorem setEs_progEnd (e : Engine) : (s.setEs e).progEnd = s.progEnd := rfl
@[simp] theorem setEs_waitX (e : Engine) : (s.setEs e).waitX = s.waitX := rfl
@[simp] theorem setEs_straps (e : Engine) : (s.setEs e).straps = s.straps := rfl
@[simp] theorem setEs_draws (e : Engine) : (s.setEs e).draws = s.draws := rfl
@[simp] theorem setEs_event (e : Engine) : (s.setEs e).event = s.event := rfl

/-! `nextDraw` -/
@[simp] theorem nextDraw_mem : s.nextDraw.mem = s.mem := rfl
@[simp] theorem nextDraw_v : s.nextDraw.v = s.v := rfl
@[simp] theorem nextDraw_i : s.nextDraw.i = s.i := rfl
@[simp] theorem nextDraw_pc : s.nextDraw.pc = s.pc := rfl
@[simp] theorem nextDraw_stack : s.nextDraw.stack = s.stack := rfl
@[simp] theorem nextDraw_sp : s.nextDraw.sp = s.sp := rfl
@[simp] theorem nextDraw_dt : s.nextDraw.dt = s.dt := rfl
@[simp] theorem nextDraw_st : s.nextDraw.st = s.st := rfl
@[simp] theorem nextDraw_keys : s.nextDraw.keys = s.keys := rfl
@[simp] theorem nextDraw_fb : s.nextDraw.fb = s.fb := rfl
@[simp] theorem nextDraw_dirty : s.nextDraw.dirty = s.dirty := rfl
@[simp] theorem nextDraw_es : s.nextDraw.es = s.es := rfl
@[simp] theorem nextDraw_fault : s.nextDraw.fault = s.fault := rfl
@[simp] theorem nextDraw_faultPc : s.nextDraw.faultPc = s.faultPc := rfl
@[simp] theorem nextDraw_progEnd : s.nextDraw.progEnd = s.progEnd := rfl
@[simp] theorem nextDraw_waitX : s.nextDraw.waitX = s.waitX := rfl
@[simp] theorem nextDraw_straps : s.nextDraw.straps = s.straps := rfl
@[simp] theorem nextDraw_draws : s.nextDraw.draws = s.draws + 1 := rfl
@[simp] theorem nextDraw_event : s.nextDraw.event = s.event := rfl

/-! `emit` -/
@[simp] theorem emit_mem (e : Option BadOpcode) : (s.emit e).mem = s.mem := rfl
@[simp] theorem emit_v (e : Option BadOpcode) : (s.emit e).v = s.v := rfl
@[simp] theorem emit_i (e : Option BadOpcode) : (s.emit e).i = s.i := rfl
@[simp] theorem emit_pc (e : Option BadOpcode) : (s.emit e).pc = s.pc := rfl
@[simp] theorem emit_stack (e : Option BadOpcode) : (s.emit e).stack = s.stack := rfl
@[simp] theorem emit_sp (e : Option BadOpcode) : (s.emit e).sp = s.sp := rfl
@[simp] theorem emit_dt (e : Option BadOpcode) : (s.emit e).dt = s.dt := rfl
@[simp] theorem emit_st (e : Option BadOpcode) : (s.emit e).st = s.st := rfl
@[simp] theorem emit_keys (e : Option BadOpcode) : (s.emit e).keys = s.keys := rfl
@[simp] theorem emit_fb (e : Option BadOpcode) : (s.emit e).fb = s.fb := rfl
@[simp] theorem emit_dirty (e : Option BadOpcode) : (s.emit e).dirty = s.dirty := rfl
@[simp] theorem emit_es (e : Option BadOpcode) : (s.emit e).es = s.es := rfl
@[simp] theorem emit_fault (e : Option BadOpcode) : (s.emit e).fault = s.fault := rfl
@[simp] theorem emit_faultPc (e : Option BadOpcode) : (s.emit e).faultPc = s.faultPc := rfl
@[simp] theorem emit_progEnd (e : Option BadOpcode) : (s.emit e).progEnd = s.progEnd := rfl
@[simp] theorem emit_waitX (e : Option BadOpcode) : (s.emit e).waitX = s.waitX := rfl
@[simp] theorem emit_straps (e : Option BadOpcode) : (s.emit e).straps = s.straps := rfl
@[simp] theorem emit_draws (e : Option BadOpcode) : (s.emit e).draws = s.draws := rfl
@[simp] theorem emit_event (e : Option BadOpcode) : (s.emit e).event = e := rfl

/-! `raise` -/
@[simp] theorem raise_mem (c : Cause) : (s.raise c).mem = s.mem := rfl
@[simp] theorem raise_v (c : Cause) : (s.raise c).v = s.v := rfl
@[simp] theorem raise_i (c : Cause) : (s.raise c).i = s.i := rfl
@[simp] theorem raise_pc (c : Cause) : (s.raise c).pc = s.pc := rfl
@[simp] theorem raise_stack (c : Cause) : (s.raise c).stack = s.stack := rfl
@[simp] theorem raise_sp (c : Cause) : (s.raise c).sp = s.sp := rfl
@[simp] theorem raise_dt (c : Cause) : (s.raise c).dt = s.dt := rfl
@[simp] theorem raise_st (c : Cause) : (s.raise c).st = s.st := rfl
@[simp] theorem raise_keys (c : Cause) : (s.raise c).keys = s.keys := rfl
@[simp] theorem raise_fb (c : Cause) : (s.raise c).fb = s.fb := rfl
@[simp] theorem raise_dirty (c : Cause) : (s.raise c).dirty = s.dirty := rfl
@[simp] theorem raise_es (c : Cause) : (s.raise c).es = .halted := rfl
@[simp] theorem raise_fault (c : Cause) : (s.raise c).fault = c := rfl
@[simp] theorem raise_faultPc (c : Cause) : (s.raise c).faultPc = s.pc := rfl
@[simp] theorem raise_progEnd (c : Cause) : (s.raise c).progEnd = s.progEnd := rfl
@[simp] theorem raise_waitX (c : Cause) : (s.raise c).waitX = s.waitX := rfl
@[simp] theorem raise_straps (c : Cause) : (s.raise c).straps = s.straps := rfl
@[simp] theorem raise_draws (c : Cause) : (s.raise c).draws = s.draws := rfl
@[simp] theorem raise_event (c : Cause) : (s.raise c).event = s.event := rfl

/-! `putResult` -/
@[simp] theorem putResult_mem (x : Reg) (b : Byte) : (s.putResult x b).mem = s.mem := rfl
@[simp] theorem putResult_v (x : Reg) (b : Byte) : (s.putResult x b).v = s.v.set x.val b := rfl
@[simp] theorem putResult_i (x : Reg) (b : Byte) : (s.putResult x b).i = s.i := rfl
@[simp] theorem putResult_pc (x : Reg) (b : Byte) : (s.putResult x b).pc = s.pc + 2 := rfl
@[simp] theorem putResult_stack (x : Reg) (b : Byte) : (s.putResult x b).stack = s.stack := rfl
@[simp] theorem putResult_sp (x : Reg) (b : Byte) : (s.putResult x b).sp = s.sp := rfl
@[simp] theorem putResult_dt (x : Reg) (b : Byte) : (s.putResult x b).dt = s.dt := rfl
@[simp] theorem putResult_st (x : Reg) (b : Byte) : (s.putResult x b).st = s.st := rfl
@[simp] theorem putResult_keys (x : Reg) (b : Byte) : (s.putResult x b).keys = s.keys := rfl
@[simp] theorem putResult_fb (x : Reg) (b : Byte) : (s.putResult x b).fb = s.fb := rfl
@[simp] theorem putResult_dirty (x : Reg) (b : Byte) : (s.putResult x b).dirty = s.dirty := rfl
@[simp] theorem putResult_es (x : Reg) (b : Byte) : (s.putResult x b).es = s.es := rfl
@[simp] theorem putResult_fault (x : Reg) (b : Byte) : (s.putResult x b).fault = s.fault := rfl
@[simp] theorem putResult_faultPc (x : Reg) (b : Byte) : (s.putResult x b).faultPc = s.faultPc := rfl
@[simp] theorem putResult_progEnd (x : Reg) (b : Byte) : (s.putResult x b).progEnd = s.progEnd := rfl
@[simp] theorem putResult_waitX (x : Reg) (b : Byte) : (s.putResult x b).waitX = s.waitX := rfl
@[simp] theorem putResult_straps (x : Reg) (b : Byte) : (s.putResult x b).straps = s.straps := rfl
@[simp] theorem putResult_draws (x : Reg) (b : Byte) : (s.putResult x b).draws = s.draws := rfl
@[simp] theorem putResult_event (x : Reg) (b : Byte) : (s.putResult x b).event = s.event := rfl

/-! `putFlagged` -/
@[simp] theorem putFlagged_mem (x : Reg) (b : Byte) (f : Bool) : (s.putFlagged x b f).mem = s.mem := rfl
@[simp] theorem putFlagged_v (x : Reg) (b : Byte) (f : Bool) : (s.putFlagged x b f).v = (s.v.set x.val b).set VF.val (flagByte f) := rfl
@[simp] theorem putFlagged_i (x : Reg) (b : Byte) (f : Bool) : (s.putFlagged x b f).i = s.i := rfl
@[simp] theorem putFlagged_pc (x : Reg) (b : Byte) (f : Bool) : (s.putFlagged x b f).pc = s.pc + 2 := rfl
@[simp] theorem putFlagged_stack (x : Reg) (b : Byte) (f : Bool) : (s.putFlagged x b f).stack = s.stack := rfl
@[simp] theorem putFlagged_sp (x : Reg) (b : Byte) (f : Bool) : (s.putFlagged x b f).sp = s.sp := rfl
@[simp] theorem putFlagged_dt (x : Reg) (b : Byte) (f : Bool) : (s.putFlagged x b f).dt = s.dt := rfl
@[simp] theorem putFlagged_st (x : Reg) (b : Byte) (f : Bool) : (s.putFlagged x b f).st = s.st := rfl
@[simp] theorem putFlagged_keys (x : Reg) (b : Byte) (f : Bool) : (s.putFlagged x b f).keys = s.keys := rfl
@[simp] theorem putFlagged_fb (x : Reg) (b : Byte) (f : Bool) : (s.putFlagged x b f).fb = s.fb := rfl
@[simp] theorem putFlagged_dirty (x : Reg) (b : Byte) (f : Bool) : (s.putFlagged x b f).dirty = s.dirty := rfl
@[simp] theorem putFlagged_es (x : Reg) (b : Byte) (f : Bool) : (s.putFlagged x b f).es = s.es := rfl
@[simp] theorem putFlagged_fault (x : Reg) (b : Byte) (f : Bool) : (s.putFlagged x b f).fault = s.fault := rfl
@[simp] theorem putFlagged_faultPc (x : Reg) (b : Byte) (f : Bool) : (s.putFlagged x b f).faultPc = s.faultPc := rfl
@[simp] theorem putFlagged_progEnd (x : Reg) (b : Byte) (f : Bool) : (s.putFlagged x b f).progEnd = s.progEnd := rfl
@[simp] theorem putFlagged_waitX (x : Reg) (b : Byte) (f : Bool) : (s.putFlagged x b f).waitX = s.waitX := rfl
@[simp] theorem putFlagged_straps (x : Reg) (b : Byte) (f : Bool) : (s.putFlagged x b f).straps = s.straps := rfl
@[simp] theorem putFlagged_draws (x : Reg) (b : Byte) (f : Bool) : (s.putFlagged x b f).draws = s.draws := rfl
@[simp] theorem putFlagged_event (x : Reg) (b : Byte) (f : Bool) : (s.putFlagged x b f).event = s.event := rfl

/-! `showCanvas` -/
@[simp] theorem showCanvas_mem (cv : Canvas) : (s.showCanvas cv).mem = s.mem := rfl
@[simp] theorem showCanvas_v (cv : Canvas) : (s.showCanvas cv).v = s.v.set VF.val (flagByte cv.coll) := rfl
@[simp] theorem showCanvas_i (cv : Canvas) : (s.showCanvas cv).i = s.i := rfl
@[simp] theorem showCanvas_pc (cv : Canvas) : (s.showCanvas cv).pc = s.pc + 2 := rfl
@[simp] theorem showCanvas_stack (cv : Canvas) : (s.showCanvas cv).stack = s.stack := rfl
@[simp] theorem showCanvas_sp (cv : Canvas) : (s.showCanvas cv).sp = s.sp := rfl
@[simp] theorem showCanvas_dt (cv : Canvas) : (s.showCanvas cv).dt = s.dt := rfl
@[simp] theorem showCanvas_st (cv : Canvas) : (s.showCanvas cv).st = s.st := rfl
@[simp] theorem showCanvas_keys (cv : Canvas) : (s.showCanvas cv).keys = s.keys := rfl
@[simp] theorem showCanvas_fb (cv : Canvas) : (s.showCanvas cv).fb = cv.fb := rfl
@[simp] theorem showCanvas_dirty (cv : Canvas) : (s.showCanvas cv).dirty = true := rfl
@[simp] theorem showCanvas_es (cv : Canvas) : (s.showCanvas cv).es = s.es := rfl
@[simp] theorem showCanvas_fault (cv : Canvas) : (s.showCanvas cv).fault = s.fault := rfl
@[simp] theorem showCanvas_faultPc (cv : Canvas) : (s.showCanvas cv).faultPc = s.faultPc := rfl
@[simp] theorem showCanvas_progEnd (cv : Canvas) : (s.showCanvas cv).progEnd = s.progEnd := rfl
@[simp] theorem showCanvas_waitX (cv : Canvas) : (s.showCanvas cv).waitX = s.waitX := rfl
@[simp] theorem showCanvas_straps (cv : Canvas) : (s.showCanvas cv).straps = s.straps := rfl
@[simp] theorem showCanvas_draws (cv : Canvas) : (s.showCanvas cv).draws = s.draws := rfl
@[simp] theorem showCanvas_event (cv : Canvas) : (s.showCanvas cv).event = s.event := rfl

/-! `tick` -/
@[simp] theorem tick_mem : s.tick.mem = s.mem := rfl
@[simp] theorem tick_v : s.tick.v = s.v := rfl
@[simp] theorem tick_i : s.tick.i = s.i := rfl
@[simp] theorem tick_pc : s.tick.pc = s.pc := rfl
@[simp] theorem tick_stack : s.tick.stack = s.stack := rfl
@[simp] theorem tick_sp : s.tick.sp = s.sp := rfl
@[simp] theorem tick_dt : s.tick.dt = countDown s.dt := rfl
@[simp] theorem tick_st : s.tick.st = countDown s.st := rfl
@[simp] theorem tick_keys : s.tick.keys = s.keys := rfl
@[simp] theorem tick_fb : s.tick.fb = s.fb := rfl
@[simp] theorem tick_dirty : s.tick.dirty = s.dirty := rfl
@[simp] theorem tick_es : s.tick.es = s.es := rfl
@[simp] theorem tick_fault : s.tick.fault = s.fault := rfl
@[simp] theorem tick_faultPc : s.tick.faultPc = s.faultPc := rfl
@[simp] theorem tick_progEnd : s.tick.progEnd = s.progEnd := rfl
@[simp] theorem tick_waitX : s.tick.waitX = s.waitX := rfl
@[simp] theorem tick_straps : s.tick.straps = s.straps := rfl
@[simp] theorem tick_draws : s.tick.draws = s.draws := rfl
@[simp] theorem tick_event : s.tick.event = s.event := rfl

/-! `badOpcode` -/
@[simp] theorem badOpcode_mem (w : Word) : (s.badOpcode w).mem = s.mem := rfl
@[simp] theorem badOpcode_v (w : Word) : (s.badOpcode w).v = s.v := rfl
@[simp] theorem badOpcode_i (w : Word) : (s.badOpcode w).i = s.i := rfl
@[simp] theorem badOpcode_pc (w : Word) : (s.badOpcode w).pc = s.pc + 2 := rfl
@[simp] theorem badOpcode_stack (w : Word) : (s.badOpcode w).stack = s.stack := rfl
@[simp] theorem badOpcode_sp (w : Word) : (s.badOpcode w).sp = s.sp := rfl
@[simp] theorem badOpcode_dt (w : Word) : (s.badOpcode w).dt = s.dt := rfl
@[simp] theorem badOpcode_st (w : Word) : (s.badOpcode w).st = s.st := rfl
@[simp] theorem badOpcode_keys (w : Word) : (s.badOpcode w).keys = s.keys := rfl
@[simp] theorem badOpcode_fb (w : Word) : (s.badOpcode w).fb = s.fb := rfl
@[simp] theorem badOpcode_dirty (w : Word) : (s.badOpcode w).dirty = s.dirty := rfl
@[simp] theorem badOpcode_es (w : Word) : (s.badOpcode w).es = s.es := rfl
@[simp] theorem badOpcode_fault (w : Word) : (s.badOpcode w).fault = s.fault := rfl
@[simp] theorem badOpcode_faultPc (w : Word) : (s.badOpcode w).faultPc = s.faultPc := rfl
@[simp] theorem badOpcode_progEnd (w : Word) : (s.badOpcode w).progEnd = s.progEnd := rfl
@[simp] theorem badOpcode_waitX (w : Word) : (s.badOpcode w).waitX = s.waitX := rfl
@[simp] theorem badOpcode_straps (w : Word) : (s.badOpcode w).straps = s.straps := rfl
@[simp] theorem badOpcode_draws (w : Word) : (s.badOpcode w).draws = s.draws := rfl
@[simp] theorem badOpcode_event (w : Word) : (s.badOpcode w).event = some ⟨s.pc, w⟩ := rfl

/-! `storeBytes` -/
@[simp] theorem storeBytes_mem (a : Nat) (bs : List Byte) : (s.storeBytes a bs).mem = s.mem.writeBytes s.straps.font a bs := rfl
@[simp] theorem storeBytes_v (a : Nat) (bs : List Byte) : (s.storeBytes a bs).v = s.v := rfl
@[simp] theorem storeBytes_i (a : Nat) (bs : List Byte) : (s.storeBytes a bs).i = s.i := rfl
@[simp] theorem storeBytes_pc (a : Nat) (bs : List Byte) : (s.storeBytes a bs).pc = s.pc := rfl
@[simp] theorem storeBytes_stack (a : Nat) (bs : List Byte) : (s.storeBytes a bs).stack = s.stack := rfl
@[simp] theorem storeBytes_sp (a : Nat) (bs : List Byte) : (s.storeBytes a bs).sp = s.sp := rfl
@[simp] theorem storeBytes_dt (a : Nat) (bs : List Byte) : (s.storeBytes a bs).dt = s.dt := rfl
@[simp] theorem storeBytes_st (a : Nat) (bs : List Byte) : (s.storeBytes a bs).st = s.st := rfl
@[simp] theorem storeBytes_keys (a : Nat) (bs : List Byte) : (s.storeBytes a bs).keys = s.keys := rfl
@[simp] theorem storeBytes_fb (a : Nat) (bs : List Byte) : (s.storeBytes a bs).fb = s.fb := rfl
@[simp] theorem storeBytes_dirty (a : Nat) (bs : List Byte) : (s.storeBytes a bs).dirty = s.dirty := rfl
@[simp] theorem storeBytes_es (a : Nat) (bs : List Byte) : (s.storeBytes a bs).es = s.es := rfl
@[simp] theorem storeBytes_fault (a : Nat) (bs : List Byte) : (s.storeBytes a bs).fault = s.fault := rfl
@[simp] theorem storeBytes_faultPc (a : Nat) (bs : List Byte) : (s.storeBytes a bs).faultPc = s.faultPc := rfl
@[simp] theorem storeBytes_progEnd (a : Nat) (bs : List Byte) : (s.storeBytes a bs).progEnd = s.progEnd := rfl
@[simp] theorem storeBytes_waitX (a : Nat) (bs : List Byte) : (s.storeBytes a bs).waitX = s.waitX := rfl
@[simp] theorem storeBytes_straps (a : Nat) (bs : List Byte) : (s.storeBytes a bs).straps = s.straps := rfl
@[simp] theorem storeBytes_draws (a : Nat) (bs : List Byte) : (s.storeBytes a bs).draws = s.draws := rfl
@[simp] theorem storeBytes_event (a : Nat) (bs : List Byte) : (s.storeBytes a bs).event = s.event := rfl

@[simp] theorem skipIf_mem (c : Bool) : (s.skipIf c).mem = s.mem := by cases c <;> rfl
@[simp] theorem skipIf_v (c : Bool) : (s.skipIf c).v = s.v := by cases c <;> rfl
@[simp] theorem skipIf_i (c : Bool) : (s.skipIf c).i = s.i := by cases c <;> rfl
@[simp] theorem skipIf_stack (c : Bool) : (s.skipIf c).stack = s.stack := by cases c <;> rfl
@[simp] theorem skipIf_sp (c : Bool) : (s.skipIf c).sp = s.sp := by cases c <;> rfl
@[simp] theorem skipIf_dt (c : Bool) : (s.skipIf c).dt = s.dt := by cases c <;> rfl
@[simp] theorem skipIf_st (c : Bool) : (s.skipIf c).st = s.st := by cases c <;> rfl
@[simp] theorem skipIf_keys (c : Bool) : (s.skipIf c).keys = s.keys := by cases c <;> rfl
@[simp] theorem skipIf_fb (c : Bool) : (s.skipIf c).fb = s.fb := by cases c <;> rfl
@[simp] theorem skipIf_dirty (c : Bool) : (s.skipIf c).dirty = s.dirty := by cases c <;> rfl
@[simp] theorem skipIf_es (c : Bool) : (s.skipIf c).es = s.es := by cases c <;> rfl
@[simp] theorem skipIf_fault (c : Bool) : (s.skipIf c).fault = s.fault := by cases c <;> rfl
@[simp] theorem skipIf_faultPc (c : Bool) : (s.skipIf c).faultPc = s.faultPc := by cases c <;> rfl
@[simp] theorem skipIf_progEnd (c : Bool) : (s.skipIf c).progEnd = s.progEnd := by cases c <;> rfl
@[simp] theorem skipIf_waitX (c : Bool) : (s.skipIf c).waitX = s.waitX := by cases c <;> rfl
@[simp] theorem skipIf_straps (c : Bool) : (s.skipIf c).straps = s.straps := by cases c <;> rfl
@[simp] theorem skipIf_draws (c : Bool) : (s.skipIf c).draws = s.draws := by cases c <;> rfl
@[simp] theorem skipIf_event (c : Bool) : (s.skipIf c).event = s.event := by cases c <;> rfl
@[simp] theorem skipIf_pc (c : Bool) : (s.skipIf c).pc = if c then s.pc + 4 else s.pc + 2 := by cases c <;> rfl

/-! Reads after an update -/

theorem reg_congr {s t : State} (h : t.v = s.v) (r : Reg) : t.reg r = s.reg r := by simp [reg, h]
theorem key_congr {s t : State} (h : t.keys = s.keys) (k : Fin 16) : t.key k = s.key k := by simp [key, h]
theorem pixel_congr {s t : State} (h : t.fb = s.fb) (r : Fin 32) (c : Fin 64) : t.pixel r c = s.pixel r c := by
  simp [pixel, h]
theorem readByte_congr {s t : State} (hm : t.mem = s.mem) (hs : t.straps = s.straps) (a : Nat) :
    t.readByte a = s.readByte a := by simp [readByte, hm, hs]

@[simp] theorem reg_setReg (x r : Reg) (b : Byte) : (s.setReg x b).reg r = if r = x then b else s.reg r := by
  simp [reg, Vector.getElem_set, Fin.ext_iff, eq_comm]
@[simp] theorem reg_putResult (x r : Reg) (b : Byte) :
    (s.putResult x b).reg r = if r = x then b else s.reg r := reg_setReg s x r b
@[simp] theorem reg_putFlagged (x r : Reg) (b : Byte) (f : Bool) :
    (s.putFlagged x b f).reg r = if r = VF then flagByte f else if r = x then b else s.reg r := by
  rw [← reg_setReg s x r b, ← reg_setReg (s.setReg x b) VF r (flagByte f)]; rfl
@[simp] theorem reg_showCanvas (cv : Canvas) (r : Reg) :
    (s.showCanvas cv).reg r = if r = VF then flagByte cv.coll else s.reg r := reg_setReg (s.setScreen cv.fb) VF r _
@[simp] theorem reg_loadRegs (bs : List Byte) (r : Reg) : (s.loadRegs bs).reg r = bs.getD r.val (s.reg r) := by
  simp [reg]
@[simp] theorem readByte_setReg (x : Reg) (b : Byte) (n : Nat) : (s.setReg x b).readByte n = s.readByte n := rfl
@[simp] theorem key_setReg (x : Reg) (b : Byte) (k : Fin 16) : (s.setReg x b).key k = s.key k := rfl
@[simp] theorem pixel_setReg (x : Reg) (b : Byte) (r : Fin 32) (p : Fin 64) : (s.setReg x b).pixel r p = s.pixel r p := rfl
@[simp] theorem readByte_loadRegs (bs : List Byte) (n : Nat) : (s.loadRegs bs).readByte n = s.readByte n := rfl
@[simp] theorem key_loadRegs (bs : List Byte) (k : Fin 16) : (s.loadRegs bs).key k = s.key k := rfl
@[simp] theorem pixel_loadRegs (bs : List Byte) (r : Fin 32) (p : Fin 64) : (s.loadRegs bs).pixel r p = s.pixel r p := rfl
@[simp] theorem reg_setI (a : Word) (r : Reg) : (s.setI a).reg r = s.reg r := rfl
@[simp] theorem readByte_setI (a : Word) (n : Nat) : (s.setI a).readByte n = s.readByte n := rfl
@[simp] theorem key_setI (a : Word) (k : Fin 16) : (s.setI a).key k = s.key k := rfl
@[simp] theorem pixel_setI (a : Word) (r : Fin 32) (p : Fin 64) : (s.setI a).pixel r p = s.pixel r p := rfl
@[simp] theorem reg_setPc (a : Word) (r : Reg) : (s.setPc a).reg r = s.reg r := rfl
@[simp] theorem readByte_setPc (a : Word) (n : Nat) : (s.setPc a).readByte n = s.readByte n := rfl
@[simp] theorem key_setPc (a : Word) (k : Fin 16) : (s.setPc a).key k = s.key k := rfl
@[simp] theorem pixel_setPc (a : Word) (r : Fin 32) (p : Fin 64) : (s.setPc a).pixel r p = s.pixel r p := rfl
@[simp] theorem reg_advance (r : Reg) : s.advance.reg r = s.reg r := rfl
@[simp] theorem readByte_advance (n : Nat) : s.advance.readByte n = s.readByte n := rfl
@[simp] theorem key_advance (k : Fin 16) : s.advance.key k = s.key k := rfl
@[simp] theorem pixel_advance (r : Fin 32) (p : Fin 64) : s.advance.pixel r p = s.pixel r p := rfl
@[simp] theorem reg_skip (r : Reg) : s.skip.reg r = s.reg r := rfl
@[simp] theorem readByte_skip (n : Nat) : s.skip.readByte n = s.readByte n := rfl
@[simp] theorem key_skip (k : Fin 16) : s.skip.key k = s.key k := rfl
@[simp] theorem pixel_skip (r : Fin 32) (p : Fin 64) : s.skip.pixel r p = s.pixel r p := rfl
@[simp] theorem reg_setDt (b : Byte) (r : Reg) : (s.setDt b).reg r = s.reg r := rfl
@[simp] theorem readByte_setDt (b : Byte) (n : Nat) : (s.setDt b).readByte n = s.readByte n := rfl
@[simp] theorem key_setDt (b : Byte) (k : Fin 16) : (s.setDt b).key k = s.key k := rfl
@[simp] theorem pixel_setDt (b : Byte) (r : Fin 32) (p : Fin 64) : (s.setDt b).pixel r p = s.pixel r p := rfl
@[simp] theorem reg_setSt (b : Byte) (r : Reg) : (s.setSt b).reg r = s.reg r := rfl
@[simp] theorem readByte_setSt (b : Byte) (n : Nat) : (s.setSt b).readByte n = s.readByte n := rfl
@[simp] theorem key_setSt (b : Byte) (k : Fin 16) : (s.setSt b).key k = s.key k := rfl
@[simp] theorem pixel_setSt (b : Byte) (r : Fin 32) (p : Fin 64) : (s.setSt b).pixel r p = s.pixel r p := rfl
@[simp] theorem reg_setScreen (fb : Screen) (r : Reg) : (s.setScreen fb).reg r = s.reg r := rfl
@[simp] theorem readByte_setScreen (fb : Screen) (n : Nat) : (s.setScreen fb).readByte n = s.readByte n := rfl
@[simp] theorem key_setScreen (fb : Screen) (k : Fin 16) : (s.setScreen fb).key k = s.key k := rfl
@[simp] theorem reg_beginWait (x : Reg) (r : Reg) : (s.beginWait x).reg r = s.reg r := rfl
@[simp] theorem readByte_beginWait (x : Reg) (n : Nat) : (s.beginWait x).readByte n = s.readByte n := rfl
@[simp] theorem key_beginWait (x : Reg) (k : Fin 16) : (s.beginWait x).key k = s.key k := rfl
@[simp] theorem pixel_beginWait (x : Reg) (r : Fin 32) (p : Fin 64) : (s.beginWait x).pixel r p = s.pixel r p := rfl
@[simp] theorem reg_setEs (e : Engine) (r : Reg) : (s.setEs e).reg r = s.reg r := rfl
@[simp] theorem readByte_setEs (e : Engine) (n : Nat) : (s.setEs e).readByte n = s.readByte n := rfl
@[simp] theorem key_setEs (e : Engine) (k : Fin 16) : (s.setEs e).key k = s.key k := rfl
@[simp] theorem pixel_setEs (e : Engine) (r : Fin 32) (p : Fin 64) : (s.setEs e).pixel r p = s.pixel r p := rfl
@[simp] theorem reg_nextDraw (r : Reg) : s.nextDraw.reg r = s.reg r := rfl
@[simp] theorem readByte_nextDraw (n : Nat) : s.nextDraw.readByte n = s.readByte n := rfl
@[simp] theorem key_nextDraw (k : Fin 16) : s.nextDraw.key k = s.key k := rfl
@[simp] theorem pixel_nextDraw (r : Fin 32) (p : Fin 64) : s.nextDraw.pixel r p = s.pixel r p := rfl
@[simp] theorem reg_emit (e : Option BadOpcode) (r : Reg) : (s.emit e).reg r = s.reg r := rfl
@[simp] theorem readByte_emit (e : Option BadOpcode) (n : Nat) : (s.emit e).readByte n = s.readByte n := rfl
@[simp] theorem key_emit (e : Option BadOpcode) (k : Fin 16) : (s.emit e).key k = s.key k := rfl
@[simp] theorem pixel_emit (e : Option BadOpcode) (r : Fin 32) (p : Fin 64) : (s.emit e).pixel r p = s.pixel r p := rfl
@[simp] theorem reg_raise (c : Cause) (r : Reg) : (s.raise c).reg r = s.reg r := rfl
@[simp] theorem readByte_raise (c : Cause) (n : Nat) : (s.raise c).readByte n = s.readByte n := rfl
@[simp] theorem key_raise (c : Cause) (k : Fin 16) : (s.raise c).key k = s.key k := rfl
@[simp] theorem pixel_raise (c : Cause) (r : Fin 32) (p : Fin 64) : (s.raise c).pixel r p = s.pixel r p := rfl
@[simp] theorem readByte_putResult (x : Reg) (b : Byte) (n : Nat) : (s.putResult x b).readByte n = s.readByte n := rfl
@[simp] theorem key_putResult (x : Reg) (b : Byte) (k : Fin 16) : (s.putResult x b).key k = s.key k := rfl
@[simp] theorem pixel_putResult (x : Reg) (b : Byte) (r : Fin 32) (p : Fin 64) : (s.putResult x b).pixel r p = s.pixel r p := rfl
@[simp] theorem readByte_putFlagged (x : Reg) (b : Byte) (f : Bool) (n : Nat) : (s.putFlagged x b f).readByte n = s.readByte n := rfl
@[simp] theorem key_putFlagged (x : Reg) (b : Byte) (f : Bool) (k : Fin 16) : (s.putFlagged x b f).key k = s.key k := rfl
@[simp] theorem pixel_putFlagged (x : Reg) (b : Byte) (f : Bool) (r : Fin 32) (p : Fin 64) : (s.putFlagged x b f).pixel r p = s.pixel r p := rfl
@[simp] theorem readByte_showCanvas (cv : Canvas) (n : Nat) : (s.showCanvas cv).readByte n = s.readByte n := rfl
@[simp] theorem key_showCanvas (cv : Canvas) (k : Fin 16) : (s.showCanvas cv).key k = s.key k := rfl
@[simp] theorem reg_tick (r : Reg) : s.tick.reg r = s.reg r := rfl
@[simp] theorem readByte_tick (n : Nat) : s.tick.readByte n = s.readByte n := rfl
@[simp] theorem key_tick (k : Fin 16) : s.tick.key k = s.key k := rfl
@[simp] theorem pixel_tick (r : Fin 32) (p : Fin 64) : s.tick.pixel r p = s.pixel r p := rfl
@[simp] theorem reg_badOpcode (w : Word) (r : Reg) : (s.badOpcode w).reg r = s.reg r := rfl
@[simp] theorem readByte_badOpcode (w : Word) (n : Nat) : (s.badOpcode w).readByte n = s.readByte n := rfl
@[simp] theorem key_badOpcode (w : Word) (k : Fin 16) : (s.badOpcode w).key k = s.key k := rfl
@[simp] theorem pixel_badOpcode (w : Word) (r : Fin 32) (p : Fin 64) : (s.badOpcode w).pixel r p = s.pixel r p := rfl
@[simp] theorem reg_storeBytes (a : Nat) (bs : List Byte) (r : Reg) : (s.storeBytes a bs).reg r = s.reg r := rfl
@[simp] theorem key_storeBytes (a : Nat) (bs : List Byte) (k : Fin 16) : (s.storeBytes a bs).key k = s.key k := rfl
@[simp] theorem pixel_storeBytes (a : Nat) (bs : List Byte) (r : Fin 32) (p : Fin 64) : (s.storeBytes a bs).pixel r p = s.pixel r p := rfl
@[simp] theorem reg_skipIf (c : Bool) (r : Reg) : (s.skipIf c).reg r = s.reg r := by cases c <;> rfl
@[simp] theorem readByte_skipIf (c : Bool) (a : Nat) : (s.skipIf c).readByte a = s.readByte a := by cases c <;> rfl
@[simp] theorem key_skipIf (c : Bool) (k : Fin 16) : (s.skipIf c).key k = s.key k := by cases c <;> rfl
@[simp] theorem pixel_skipIf (c : Bool) (r : Fin 32) (p : Fin 64) : (s.skipIf c).pixel r p = s.pixel r p := by cases c <;> rfl

end Sys2Proof.Machine.State
end

