-- ==== Sys2Proof/Laws/Memory.lean ====
section
/-! SUPPORT. Memory: read after write, every operation keeps the canonical form, and in that form equal contents
are equal lists. -/
namespace Sys2Proof.Machine

variable {font : Vector Byte 80} {m : Memory} {a a' : Nat} {b : Byte}

namespace Memory

theorem read_erase_same : (m.erase a).read font a = unlistedByte font a := by
  induction m with
  | nil => rfl
  | cons c m ih =>
    by_cases h : c.1 = a
    · simpa [erase, h] using ih
    · simpa [erase, h, read] using ih

theorem read_erase_other (h : a' ≠ a) : (m.erase a).read font a' = m.read font a' := by
  induction m with
  | nil => rfl
  | cons c m ih =>
    by_cases hc : c.1 = a
    · have : c.1 ≠ a' := by omega
      simpa [erase, hc, read, this, Ne.symm h] using ih
    · by_cases hc' : c.1 = a'
      · simp [erase, read, hc', h]
      · simpa [erase, hc, hc', read] using ih

theorem read_insert_same (h : ∀ c ∈ m, c.1 ≠ a) : (m.insert a b).read font a = b := by
  induction m with
  | nil => simp [insert, read]
  | cons c m ih =>
    have hc : c.1 ≠ a := h c (by simp)
    have hm : ∀ d ∈ m, d.1 ≠ a := fun d hd => h d (by simp [hd])
    simp only [insert]
    split
    · simp [read]
    · simp [read, hc, ih hm]

theorem read_insert_other (h : a' ≠ a) : (m.insert a b).read font a' = m.read font a' := by
  induction m with
  | nil => simp [insert, read, Ne.symm h]
  | cons c m ih =>
    simp only [insert]
    split
    · simp [read, Ne.symm h]
    · simp [read, ih]

theorem ne_of_mem_erase {c : Host.Cell} (h : c ∈ m.erase a) : c.1 ≠ a := by
  simpa using (List.mem_filter.mp h).2

/-- A byte written reads back. -/
theorem read_write_same : (m.write font a b).read font a = b := by
  unfold write
  split
  · next h => rw [read_erase_same, h]
  · exact read_insert_same fun c hc => ne_of_mem_erase hc

/-- A write leaves every other address alone. -/
theorem read_write_other (h : a' ≠ a) : (m.write font a b).read font a' = m.read font a' := by
  unfold write
  split
  · exact read_erase_other h
  · rw [read_insert_other h, read_erase_other h]

theorem mem_insert {c : Host.Cell} (h : c ∈ m.insert a b) : c = (a, b) ∨ c ∈ m := by
  induction m with
  | nil => simpa [insert] using h
  | cons d m ih =>
    simp only [insert] at h
    split at h
    · simpa using h
    · rcases List.mem_cons.mp h with rfl | h
      · simp
      · rcases ih h with h | h <;> simp [h]

theorem mem_write {c : Host.Cell} (h : c ∈ m.write font a b) :
    (c = (a, b) ∧ b ≠ unlistedByte font a) ∨ c ∈ m := by
  unfold write at h
  split at h
  · exact .inr (List.mem_of_mem_filter h)
  · next hb =>
    rcases mem_insert h with h | h
    · exact .inl ⟨h, hb⟩
    · exact .inr (List.mem_of_mem_filter h)

theorem pairwise_insert (h : m.Pairwise fun c d => c.1 < d.1) (ha : ∀ c ∈ m, c.1 ≠ a) :
    (m.insert a b).Pairwise fun c d => c.1 < d.1 := by
  induction m with
  | nil => simp [insert]
  | cons c m ih =>
    obtain ⟨hc, hm⟩ := List.pairwise_cons.mp h
    have hca : c.1 ≠ a := ha c (by simp)
    simp only [insert]
    split
    · next hlt =>
      refine List.pairwise_cons.mpr ⟨fun d hd => ?_, h⟩
      rcases List.mem_cons.mp hd with rfl | hd
      · exact hlt
      · exact Nat.lt_trans hlt (hc d hd)
    · refine List.pairwise_cons.mpr ⟨fun d hd => ?_, ih hm fun d hd => ha d (by simp [hd])⟩
      rcases mem_insert hd with rfl | hd
      · show c.1 < a
        omega
      · exact hc d hd

/-- A write inside the address space keeps the canonical form. -/
theorem wf_write (h : m.wf font) (ha : a < 0x1000) : (m.write font a b).wf font := by
  have he : (m.erase a).Pairwise fun c d => c.1 < d.1 := h.1.filter _
  refine ⟨?_, fun c hc => ?_⟩
  · unfold write
    split
    · exact he
    · exact pairwise_insert he fun c hc => ne_of_mem_erase hc
  · rcases mem_write hc with ⟨rfl, hb⟩ | hc
    · exact ⟨ha, hb⟩
    · exact h.2 c hc

theorem wf_nil : Memory.wf font [] := ⟨List.Pairwise.nil, by simp⟩

variable {bs : List Byte}

theorem read_writeBytes_outside (h : a' < a ∨ a + bs.length ≤ a') :
    (m.writeBytes font a bs).read font a' = m.read font a' := by
  induction bs generalizing m a with
  | nil => rfl
  | cons b bs ih =>
    simp only [List.length_cons] at h
    rw [writeBytes, ih (by omega), read_write_other (by omega)]

theorem read_writeBytes_inside {k : Nat} (h : k < bs.length) :
    (m.writeBytes font a bs).read font (a + k) = bs[k] := by
  induction bs generalizing m a k with
  | nil => simp at h
  | cons b bs ih =>
    simp only [List.length_cons] at h
    rw [writeBytes]
    cases k with
    | zero => simpa using (read_writeBytes_outside (by omega)).trans read_write_same
    | succ k =>
      have := ih (m := m.write font a b) (a := a + 1) (k := k) (by omega)
      rw [show a + (k + 1) = a + 1 + k by omega, this, List.getElem_cons_succ]

theorem wf_writeBytes (h : m.wf font) (ha : a + bs.length ≤ 0x1000) : (m.writeBytes font a bs).wf font := by
  induction bs generalizing m a with
  | nil => exact h
  | cons b bs ih =>
    simp only [List.length_cons] at ha
    exact ih (wf_write h (by omega)) (by omega)

theorem mem_writeBytes {c : Host.Cell} (h : c ∈ m.writeBytes font a bs) : a ≤ c.1 ∨ c ∈ m := by
  induction bs generalizing m a with
  | nil => exact .inr h
  | cons b bs ih =>
    rcases ih h with h | h
    · exact .inl (by omega)
    · rcases mem_write h with ⟨rfl, -⟩ | h
      · exact .inl (Nat.le_refl a)
      · exact .inr h

theorem read_of_lt (h : ∀ c ∈ m, a < c.1) : m.read font a = unlistedByte font a := by
  induction m with
  | nil => rfl
  | cons c m ih =>
    have := h c (by simp)
    rw [read, if_neg (by omega), ih fun d hd => h d (by simp [hd])]

/-- In canonical form equal contents are equal lists. -/
theorem ext_of_wf {m' : Memory} (h : m.wf font) (h' : m'.wf font)
    (hr : ∀ a, m.read font a = m'.read font a) : m = m' := by
  induction m generalizing m' with
  | nil =>
    cases m' with
    | nil => rfl
    | cons d m' => exact absurd (by simpa [read] using (hr d.1).symm) (h'.2 d (by simp)).2
  | cons c m ih =>
    obtain ⟨hc, hm⟩ := List.pairwise_cons.mp h.1
    cases m' with
    | nil => exact absurd (by simpa [read] using hr c.1) (h.2 c (by simp)).2
    | cons d m' =>
      obtain ⟨hd, hm'⟩ := List.pairwise_cons.mp h'.1
      have wfc := (h.2 c (by simp)).2
      have wfd := (h'.2 d (by simp)).2
      have hcd : c.1 = d.1 := by
        rcases Nat.lt_trichotomy c.1 d.1 with hlt | heq | hgt
        · have := read_of_lt (font := font) (m := d :: m') (a := c.1) fun e he => by
            rcases List.mem_cons.mp he with rfl | he
            · exact hlt
            · exact Nat.lt_trans hlt (hd e he)
          rw [← hr c.1] at this
          exact absurd (by simpa [read] using this) wfc
        · exact heq
        · have := read_of_lt (font := font) (m := c :: m) (a := d.1) fun e he => by
            rcases List.mem_cons.mp he with rfl | he
            · exact hgt
            · exact Nat.lt_trans hgt (hc e he)
          rw [hr d.1] at this
          exact absurd (by simpa [read] using this) wfd
      have hbyte : c.2 = d.2 := by simpa [read, hcd] using hr c.1
      have hcons : c = d := Prod.ext hcd hbyte
      subst hcons
      congr 1
      refine ih ⟨hm, fun e he => h.2 e (by simp [he])⟩ ⟨hm', fun e he => h'.2 e (by simp [he])⟩ fun a => ?_
      by_cases ha : c.1 = a
      · rw [read_of_lt fun e he => ha ▸ hc e he, read_of_lt fun e he => ha ▸ hd e he]
      · simpa [read, ha] using hr a

end Memory

namespace State

variable {s t : State} {cnt : Nat} {bs : List Byte} {c : Cause}

@[simp] theorem length_readBytes : (s.readBytes a cnt).length = cnt := by simp [readBytes]

theorem getElem_readBytes {k : Nat} (h : k < (s.readBytes a cnt).length) :
    (s.readBytes a cnt)[k] = s.readByte (a + k) := by simp [readBytes]

theorem readByte_storeBytes_outside (h : a' < a ∨ a + bs.length ≤ a') :
    (s.storeBytes a bs).readByte a' = s.readByte a' := Memory.read_writeBytes_outside h

theorem readByte_storeBytes_inside {k : Nat} (h : k < bs.length) :
    (s.storeBytes a bs).readByte (a + k) = bs[k] := Memory.read_writeBytes_inside h

/-- All a read can do (R64). -/
theorem memRead_eq : s.memRead a cnt =
    if 0xFFF < a + cnt - 1 then .error .memBounds else .ok (s.readBytes a cnt) := rfl

/-- All a write can do (R65, R66). -/
theorem memWrite_eq : s.memWrite a bs =
    if 0xFFF < a + bs.length - 1 then .error .memBounds
    else if a < 0x200 then .error .storeProtect else .ok (s.storeBytes a bs) := rfl

end State

end Sys2Proof.Machine
end

