-- ==== Sys2Proof/Laws/Ops.lean ====
section
/-! SUPPORT. What each shared operation can do, said once. -/
namespace Sys2Proof.Machine

variable {s t : State}

/-! ### Ending an instruction -/

/-- An instruction that may raise a fault always answers a next state: its own, or the fault entry. -/
theorem State.complete_cases {r : Except Cause State} (h : s.complete r = .next t) :
    r = .ok t ∨ ∃ c, r = .error c ∧ t = s.raise c := by
  cases r with
  | ok u => exact .inl (by simpa [State.complete] using h)
  | error c => exact .inr ⟨c, rfl, by simpa [State.complete] using h.symm⟩

@[simp] theorem State.complete_ok (u : State) : s.complete (.ok u) = .next u := rfl
@[simp] theorem State.complete_error (c : Cause) : s.complete (.error c) = .next (s.raise c) := rfl

/-! ### The bounds checker -/

theorem State.memRead_ok {a cnt : Nat} (h : a + cnt - 1 ≤ 0xFFF) : s.memRead a cnt = .ok (s.readBytes a cnt) :=
  if_neg (by omega)

theorem State.memRead_bounds {a cnt : Nat} (h : 0xFFF < a + cnt - 1) : s.memRead a cnt = .error .memBounds := if_pos h

theorem State.memWrite_ok {a : Nat} {bs : List Byte} (h : a + bs.length - 1 ≤ 0xFFF) (ha : 0x200 ≤ a) :
    s.memWrite a bs = .ok (s.storeBytes a bs) := by
  rw [memWrite_eq, if_neg (by omega), if_neg (by omega)]

theorem State.memWrite_bounds {a : Nat} {bs : List Byte} (h : 0xFFF < a + bs.length - 1) :
    s.memWrite a bs = .error .memBounds := if_pos h

theorem State.memWrite_protect {a : Nat} {bs : List Byte} (h : a + bs.length - 1 ≤ 0xFFF) (ha : a < 0x200) :
    s.memWrite a bs = .error .storeProtect := by
  rw [memWrite_eq, if_neg (by omega), if_pos ha]

/-- If a checked write succeeds, it stored the bytes, in bounds and outside the reserved region. -/
theorem State.memWrite_cases {a : Nat} {bs : List Byte} {r : Except Cause State} (h : s.memWrite a bs = r) :
    (0xFFF < a + bs.length - 1 ∧ r = .error .memBounds) ∨
    (a + bs.length - 1 ≤ 0xFFF ∧ a < 0x200 ∧ r = .error .storeProtect) ∨
    (a + bs.length - 1 ≤ 0xFFF ∧ 0x200 ≤ a ∧ r = .ok (s.storeBytes a bs)) := by
  subst h
  rw [memWrite_eq]
  split
  · exact .inl ⟨by assumption, rfl⟩
  · split
    · exact .inr (.inl ⟨by omega, by assumption, rfl⟩)
    · exact .inr (.inr ⟨by omega, by omega, rfl⟩)

@[simp] theorem length_bcdDigits (b : Byte) : (bcdDigits b).length = 3 := rfl

@[simp] theorem State.length_regsUpTo (x : Reg) : (s.regsUpTo x).length = x.val + 1 := by
  simp [State.regsUpTo]

theorem State.getElem_regsUpTo {x : Reg} {k : Nat} (h : k < (s.regsUpTo x).length) (hk : k < 16) :
    (s.regsUpTo x)[k] = s.reg ⟨k, hk⟩ := by simp [State.regsUpTo, State.reg]

theorem zextAddr_toNat (nnn : Addr) : (zextAddr nnn).toNat = nnn.toNat := by
  simp [zextAddr, BitVec.toNat_setWidth]
  omega

theorem zextByte_toNat (b : Byte) : (zextByte b).toNat = b.toNat := by
  simp [zextByte, BitVec.toNat_setWidth]
  omega

theorem lowNibble_val (b : Byte) : (lowNibble b).val = b.toNat % 16 := by
  simp [lowNibble]

/-! ### The stack -/

theorem State.push_ok (a : Word) (h : s.sp.val < 16) :
    s.push a = .ok { s with stack := s.stack.set s.sp.val a, sp := ⟨s.sp.val + 1, by omega⟩ } := dif_pos h

theorem State.push_full (a : Word) (h : s.sp.val = 16) : s.push a = .error .stackOverflow := dif_neg (by omega)

theorem State.popPc_ok (h : s.sp.val ≠ 0) :
    s.popPc = .ok { s with sp := ⟨s.sp.val - 1, by omega⟩, pc := s.stack[s.sp.val - 1]'(by omega) } := dif_neg h

theorem State.popPc_empty (h : s.sp.val = 0) : s.popPc = .error .stackUnderflow := dif_pos h

/-! ### Keys and timers -/

/-- The key found is pressed, and no smaller one is. -/
theorem State.pressedKey_some {k : Fin 16} :
    s.pressedKey = some k ↔ s.key k = true ∧ ∀ j, j < k → s.key j = false := by
  unfold State.pressedKey
  rw [List.find?_eq_some_iff_getElem]
  constructor
  · rintro ⟨hk, n, hn, rfl, hlt⟩
    refine ⟨hk, fun j hj => ?_⟩
    have hjn : j.val < n := by simpa [Fin.lt_def] using hj
    simpa using hlt j.val hjn
  · rintro ⟨hk, hlt⟩
    refine ⟨hk, k.val, by simp, by simp, fun j hj => ?_⟩
    simpa using hlt ⟨j, by omega⟩ (by simpa [Fin.lt_def] using hj)

theorem State.pressedKey_none : s.pressedKey = none ↔ ∀ k, s.key k = false := by
  simp [State.pressedKey, List.find?_eq_none]

theorem keyByte_toNat (k : Fin 16) : (keyByte k).toNat = k.val := by
  simp [keyByte]
  omega

theorem countDown_toNat (b : Byte) : (countDown b).toNat = b.toNat - 1 := by
  unfold countDown
  split
  · next h => simp [h]
  · next h =>
    have : b.toNat ≠ 0 := fun h0 => h (BitVec.eq_of_toNat_eq h0)
    rw [BitVec.toNat_sub_of_le (BitVec.le_def.mpr (by simp; omega))]
    rfl

/-! ### The screen -/

/-- A resolved coordinate, on one axis (R212). -/
theorem resolve_eq_some {wrap : Bool} {size sum : Nat} [NeZero size] {p : Fin size} :
    resolve wrap size sum = some p ↔ LandsOn wrap size sum p.val := by
  unfold resolve LandsOn
  cases wrap with
  | true => simp [Fin.ext_iff]
  | false =>
    by_cases h : sum < size
    · simp [h, Fin.ext_iff]
    · have : sum ≠ p.val := by omega
      simp [h, this]

/-- A flip inverts its own cell and leaves every other. -/
theorem Canvas.flip_cell (cv : Canvas) (r r' : Fin 32) (c c' : Fin 64) :
    (cv.flip r c).fb[r'][c'] = if r' = r ∧ c' = c then !cv.fb[r][c] else cv.fb[r'][c'] := by
  by_cases hr : r' = r
  · subst hr
    by_cases hc : c' = c
    · subst hc
      simp [Canvas.flip]
    · have : c.val ≠ c'.val := fun h => hc (Fin.ext h.symm)
      simp [Canvas.flip, hc, this]
  · have : r.val ≠ r'.val := fun h => hr (Fin.ext h.symm)
    simp [Canvas.flip, hr, this]

/-- What one sprite bit can do: nothing, or flip the cell it lands on. -/
theorem Canvas.drawBit_cases (straps : Straps) (bit : Bool) (sx sy : Nat) (cv : Canvas) :
    ((∀ (r : Fin 32) (c : Fin 64), ¬ (bit = true ∧ LandsOn straps.wrapY 32 sy r.val ∧ LandsOn straps.wrapX 64 sx c.val)) ∧
      cv.drawBit straps bit sx sy = cv) ∨
    ∃ (r : Fin 32) (c : Fin 64), bit = true ∧ LandsOn straps.wrapY 32 sy r.val ∧ LandsOn straps.wrapX 64 sx c.val ∧
      cv.drawBit straps bit sx sy = cv.flip r c := by
  unfold Canvas.drawBit
  cases bit with
  | false => simp
  | true =>
    simp only [if_true]
    cases hy : resolve straps.wrapY 32 sy with
    | none =>
      refine .inl ⟨fun r c h => ?_, rfl⟩
      rw [resolve_eq_some.mpr h.2.1] at hy
      cases hy
    | some r =>
      cases hx : resolve straps.wrapX 64 sx with
      | none =>
        refine .inl ⟨fun r c h => ?_, rfl⟩
        rw [resolve_eq_some.mpr h.2.2] at hx
        cases hx
      | some c => exact .inr ⟨r, c, trivial, resolve_eq_some.mp hy, resolve_eq_some.mp hx, rfl⟩

end Sys2Proof.Machine
end

