-- ==== Sys2Proof/Laws/Display.lean ====
section
/-! SUPPORT. What drawing can do, said once: which cells a sprite bit, a sprite row and a sprite invert. -/
namespace Sys2Proof.Machine

/-- On one axis two sums closer together than the size land on one position only if they are equal. -/
theorem landsOn_inj {w : Bool} {size s1 s2 p : Nat} (h1 : LandsOn w size s1 p) (h2 : LandsOn w size s2 p)
    (h : s1 ≤ s2) (hd : s2 < s1 + size) : s1 = s2 := by
  unfold LandsOn at *
  cases w <;> simp_all
  have a := Nat.div_add_mod s1 size
  have b := Nat.div_add_mod s2 size
  rw [h1] at a; rw [h2] at b
  have : s1 / size = s2 / size := by
    have h3 : s1 / size ≤ s2 / size := Nat.div_le_div_right h
    have h4 : s2 / size ≤ s1 / size := by
      by_contra hc
      have h5 : s1 / size + 1 ≤ s2 / size := by omega
      have := Nat.mul_le_mul_left size h5
      rw [Nat.mul_add] at this
      omega
    omega
  rw [this] at a; omega

/-- Bit `j` of a sprite row is set and lands on the cell, the row's columns starting at `vx` and its row sum being `sy`. -/
def BitLands (st : Straps) (row : Byte) (j vx sy : Nat) (r : Fin 32) (c : Fin 64) : Prop :=
  spriteBit row j = true ∧ LandsOn st.wrapY 32 sy r.val ∧ LandsOn st.wrapX 64 (vx + j) c.val

/-- From `cv` to `cv'` exactly the cells in `P` are inverted, and the collision flag notes one that was 1. -/
def Canvas.Inverts (cv cv' : Canvas) (P : Fin 32 → Fin 64 → Prop) : Prop :=
  (∀ r c, (P r c → cv'.fb[r][c] = !cv.fb[r][c]) ∧ (¬ P r c → cv'.fb[r][c] = cv.fb[r][c])) ∧
  (cv'.coll = true ↔ cv.coll = true ∨ ∃ r c, P r c ∧ cv.fb[r][c] = true)

/-- Two disjoint inversions in a row are one. -/
theorem Canvas.inverts_trans {a b c : Canvas} {P Q : Fin 32 → Fin 64 → Prop} (h1 : Canvas.Inverts a b P) (h2 : Canvas.Inverts b c Q)
    (hd : ∀ r x, ¬ (P r x ∧ Q r x)) : Canvas.Inverts a c (fun r x => P r x ∨ Q r x) := by
  refine ⟨fun r x => ⟨?_, ?_⟩, ?_⟩
  · rintro (h | h)
    · rw [(h2.1 r x).2 (fun q => hd r x ⟨h, q⟩), (h1.1 r x).1 h]
    · rw [(h2.1 r x).1 h, (h1.1 r x).2 (fun q => hd r x ⟨q, h⟩)]
  · intro h
    rw [(h2.1 r x).2 (fun q => h (.inr q)), (h1.1 r x).2 (fun q => h (.inl q))]
  · rw [h2.2, h1.2]
    constructor
    · rintro ((h | ⟨r, x, hp, hv⟩) | ⟨r, x, hq, hv⟩)
      · exact .inl h
      · exact .inr ⟨r, x, .inl hp, hv⟩
      · rw [(h1.1 r x).2 (fun q => hd r x ⟨q, hq⟩)] at hv
        exact .inr ⟨r, x, .inr hq, hv⟩
    · rintro (h | ⟨r, x, hp | hq, hv⟩)
      · exact .inl (.inl h)
      · exact .inl (.inr ⟨r, x, hp, hv⟩)
      · rw [← (h1.1 r x).2 (fun q => hd r x ⟨q, hq⟩)] at hv
        exact .inr ⟨r, x, hq, hv⟩

theorem Canvas.inverts_congr {a b : Canvas} {P Q : Fin 32 → Fin 64 → Prop} (h : Canvas.Inverts a b P) (e : ∀ r c, P r c ↔ Q r c) : Canvas.Inverts a b Q := by
  have : P = Q := by funext r c; exact propext (e r c)
  exact this ▸ h

/-- All one sprite bit does. -/
theorem Canvas.inverts_drawBit (st : Straps) (row : Byte) (j vx sy : Nat) (cv : Canvas) :
    Canvas.Inverts cv (cv.drawBit st (spriteBit row j) (vx + j) sy) (BitLands st row j vx sy) := by
  rcases Canvas.drawBit_cases st (spriteBit row j) (vx + j) sy cv with ⟨hn, he⟩ | ⟨r, c, h1, h2, h3, he⟩
  · rw [he]
    exact ⟨fun r c => ⟨fun h => absurd h (hn r c), fun _ => rfl⟩, by
      constructor
      · exact .inl
      · rintro (h | ⟨r, c, h, _⟩)
        · exact h
        · exact absurd h (hn r c)⟩
  · rw [he]
    have u : ∀ r' c', BitLands st row j vx sy r' c' ↔ r' = r ∧ c' = c := by
      intro r' c'
      constructor
      · rintro ⟨_, a, b⟩
        unfold LandsOn at *
        constructor <;> apply Fin.ext
        · split at a <;> split at h2 <;> simp_all
        · split at b <;> split at h3 <;> simp_all
      · rintro ⟨rfl, rfl⟩; exact ⟨h1, h2, h3⟩
    refine ⟨fun r' c' => ⟨fun h => ?_, fun h => ?_⟩, ?_⟩
    · obtain ⟨rfl, rfl⟩ := (u r' c').mp h
      rw [Canvas.flip_cell]; simp
    · rw [Canvas.flip_cell, if_neg (fun q => h ((u r' c').mpr q))]
    · simp only [Canvas.flip, Bool.or_eq_true]
      constructor
      · rintro (h | h)
        · exact .inl h
        · exact .inr ⟨r, c, (u r c).mpr ⟨rfl, rfl⟩, h⟩
      · rintro (h | ⟨r', c', h, hv⟩)
        · exact .inl h
        · obtain ⟨rfl, rfl⟩ := (u r' c').mp h
          exact .inr hv

/-- All the first `n` pixels of a sprite row do. -/
theorem Canvas.inverts_pixels (st : Straps) (row : Byte) (vx sy : Nat) : ∀ (n : Nat), n ≤ 8 → ∀ cv : Canvas,
    Canvas.Inverts cv ((List.range n).foldl (fun cv j => cv.drawBit st (spriteBit row j) (vx + j) sy) cv)
      (fun r c => ∃ j, j < n ∧ BitLands st row j vx sy r c) := by
  intro n
  induction n with
  | zero => intro _ cv; simp [Canvas.Inverts]
  | succ n ih =>
    intro hn cv
    rw [List.range_succ, List.foldl_append]
    refine Canvas.inverts_congr (Canvas.inverts_trans (ih (by omega) cv) (Canvas.inverts_drawBit st row n vx sy _) ?_) ?_
    · rintro r c ⟨⟨j, hj, -, -, h1⟩, -, -, h2⟩
      have := landsOn_inj h1 h2 (by omega) (by omega)
      omega
    · intro r c
      constructor
      · rintro (⟨j, hj, h⟩ | h)
        · exact ⟨j, by omega, h⟩
        · exact ⟨n, by omega, h⟩
      · rintro ⟨j, hj, h⟩
        by_cases hjn : j = n
        · exact .inr (hjn ▸ h)
        · exact .inl ⟨j, by omega, h⟩

/-- All a sprite does: it inverts the cells its set bits land on, each once (R214). -/
theorem Canvas.inverts_drawRows (st : Straps) (vx : Nat) : ∀ (rows : List Byte) (sy : Nat) (cv : Canvas), rows.length ≤ 15 →
    Canvas.Inverts cv (Canvas.drawRows st vx sy rows cv)
      (fun r c => ∃ k j, ∃ h : k < rows.length, j < 8 ∧ BitLands st rows[k] j vx (sy + k) r c) := by
  intro rows
  induction rows with
  | nil => intro sy cv _; simp [Canvas.Inverts, Canvas.drawRows]
  | cons row rows ih =>
    intro sy cv hl
    simp only [List.length_cons] at hl
    rw [Canvas.drawRows]
    refine Canvas.inverts_congr (Canvas.inverts_trans (Canvas.inverts_pixels st row vx sy 8 (by omega) cv) (ih (sy + 1) _ (by omega)) ?_) ?_
    · rintro r c ⟨⟨j, hj, -, h1, -⟩, ⟨k, j', hk, -, -, h2, -⟩⟩
      have := landsOn_inj h1 h2 (by omega) (by omega)
      omega
    · intro r c
      constructor
      · rintro (⟨j, hj, h⟩ | ⟨k, j, hk, hj, h⟩)
        · exact ⟨0, j, by simp, hj, h⟩
        · exact ⟨k + 1, j, by simp; omega, hj, by
            have e : sy + (k + 1) = sy + 1 + k := by omega
            rw [e]; exact h⟩
      · rintro ⟨k, j, hk, hj, h⟩
        cases k with
        | zero => exact .inl ⟨j, hj, h⟩
        | succ k =>
          have e : sy + (k + 1) = sy + 1 + k := by omega
          rw [e] at h
          exact .inr ⟨k, j, by simp at hk; omega, hj, h⟩

end Sys2Proof.Machine
end

