-- ==== Sys2Proof/Laws/Exec.lean ====
section
/-! SUPPORT. What executing an instruction can do, said once: one constructor of `Effect` per way an instruction
ends, with its condition. A claim about every instruction is a case analysis on it. -/
namespace Sys2Proof.Machine

/-- `Effect i s t`: `t` is what executing `i` in `s` leads to, in the terms of Machine/Ops.lean. -/
inductive Effect (s : State) : Instr → State → Prop where
  | cls : Effect s .cls (s.setScreen blankScreen).advance
  | ret (h : s.sp.val ≠ 0) : Effect s .ret
      { s with sp := ⟨s.sp.val - 1, by omega⟩, pc := s.stack[s.sp.val - 1]'(by omega) }
  | retEmpty (h : s.sp.val = 0) : Effect s .ret (s.raise .stackUnderflow)
  | jp (nnn : Addr) : Effect s (.jp nnn) (s.setPc (zextAddr nnn))
  | call (nnn : Addr) (h : s.sp.val < 16) : Effect s (.call nnn)
      { s with stack := s.stack.set s.sp.val (s.pc + 2), sp := ⟨s.sp.val + 1, by omega⟩, pc := zextAddr nnn }
  | callFull (nnn : Addr) (h : s.sp.val = 16) : Effect s (.call nnn) (s.raise .stackOverflow)
  | seKk (x : Reg) (kk : Byte) : Effect s (.seKk x kk) (s.skipIf (s.reg x == kk))
  | sneKk (x : Reg) (kk : Byte) : Effect s (.sneKk x kk) (s.skipIf (s.reg x != kk))
  | seVy (x y : Reg) : Effect s (.seVy x y) (s.skipIf (s.reg x == s.reg y))
  | ldKk (x : Reg) (kk : Byte) : Effect s (.ldKk x kk) (s.putResult x kk)
  | addKk (x : Reg) (kk : Byte) : Effect s (.addKk x kk) (s.putResult x (s.reg x + kk))
  | ldVy (x y : Reg) : Effect s (.ldVy x y) (s.putResult x (s.reg y))
  | orVy (x y : Reg) : Effect s (.orVy x y) (s.putResult x (s.reg x ||| s.reg y))
  | andVy (x y : Reg) : Effect s (.andVy x y) (s.putResult x (s.reg x &&& s.reg y))
  | xorVy (x y : Reg) : Effect s (.xorVy x y) (s.putResult x (s.reg x ^^^ s.reg y))
  | addVy (x y : Reg) : Effect s (.addVy x y) (s.putFlagged x (s.reg x + s.reg y) (carry (s.reg x) (s.reg y)))
  | sub (x y : Reg) : Effect s (.sub x y) (s.putFlagged x (s.reg x - s.reg y) (noBorrow (s.reg x) (s.reg y)))
  | shr (x y : Reg) : Effect s (.shr x y) (s.putFlagged x (s.reg x >>> 1) (lowBit (s.reg x)))
  | subn (x y : Reg) : Effect s (.subn x y) (s.putFlagged x (s.reg y - s.reg x) (noBorrow (s.reg y) (s.reg x)))
  | shl (x y : Reg) : Effect s (.shl x y) (s.putFlagged x (s.reg x <<< 1) (highBit (s.reg x)))
  | sneVy (x y : Reg) : Effect s (.sneVy x y) (s.skipIf (s.reg x != s.reg y))
  | ldI (nnn : Addr) : Effect s (.ldI nnn) (s.setI (zextAddr nnn)).advance
  | jpV0 (nnn : Addr) : Effect s (.jpV0 nnn) (s.setPc (zextAddr nnn + zextByte (s.reg 0)))
  | rnd (x : Reg) (kk : Byte) : Effect s (.rnd x kk) (s.putResult x (Config.draw s.draws &&& kk)).nextDraw
  | drw (x y : Reg) (n : Nat) (h : n = 0 ∨ s.base + n - 1 ≤ 0xFFF) : Effect s (.drw x y n)
      (s.showCanvas (s.drawSprite x y (s.readBytes s.base n)))
  | drwBounds (x y : Reg) (n : Nat) (h0 : 0 < n) (h : 0xFFF < s.base + n - 1) : Effect s (.drw x y n)
      (s.raise .memBounds)
  | skp (x : Reg) : Effect s (.skp x) (s.skipIf (s.key (lowNibble (s.reg x))))
  | sknp (x : Reg) : Effect s (.sknp x) (s.skipIf (!s.key (lowNibble (s.reg x))))
  | ldVxDt (x : Reg) : Effect s (.ldVxDt x) (s.putResult x s.dt)
  | ldVxK (x : Reg) (k : Fin 16) (h : s.pressedKey = some k) : Effect s (.ldVxK x) (s.putResult x (keyByte k))
  | ldVxKWait (x : Reg) (h : s.pressedKey = none) : Effect s (.ldVxK x) (s.beginWait x)
  | ldDtVx (x : Reg) : Effect s (.ldDtVx x) (s.setDt (s.reg x)).advance
  | ldStVx (x : Reg) : Effect s (.ldStVx x) (s.setSt (s.reg x)).advance
  | addI (x : Reg) : Effect s (.addI x) (s.setI (s.i + zextByte (s.reg x))).advance
  | ldF (x : Reg) : Effect s (.ldF x) (s.setI (glyphAddr (lowNibble (s.reg x)))).advance
  | ldB (x : Reg) (h : s.base + 2 ≤ 0xFFF) (ha : 0x200 ≤ s.base) : Effect s (.ldB x)
      (s.storeBytes s.base (bcdDigits (s.reg x))).advance
  | ldBBounds (x : Reg) (h : 0xFFF < s.base + 2) : Effect s (.ldB x) (s.raise .memBounds)
  | ldBProtect (x : Reg) (h : s.base < 0x200) : Effect s (.ldB x) (s.raise .storeProtect)
  | ldMemVx (x : Reg) (h : s.base + x.val ≤ 0xFFF) (ha : 0x200 ≤ s.base) : Effect s (.ldMemVx x)
      (s.storeBytes s.base (s.regsUpTo x)).advance
  | ldMemVxBounds (x : Reg) (h : 0xFFF < s.base + x.val) : Effect s (.ldMemVx x) (s.raise .memBounds)
  | ldMemVxProtect (x : Reg) (h : s.base < 0x200) : Effect s (.ldMemVx x) (s.raise .storeProtect)
  | ldVxMem (x : Reg) (h : s.base + x.val ≤ 0xFFF) : Effect s (.ldVxMem x)
      (s.loadRegs (s.readBytes s.base (x.val + 1))).advance
  | ldVxMemBounds (x : Reg) (h : 0xFFF < s.base + x.val) : Effect s (.ldVxMem x) (s.raise .memBounds)

variable {s t : State}

/-- The sprite's bytes, or out of bounds (R213, R214). -/
theorem State.spriteRows_ok {n : Nat} (h : n = 0 ∨ s.base + n - 1 ≤ 0xFFF) :
    s.spriteRows n = .ok (s.readBytes s.base n) := by
  unfold State.spriteRows
  split
  · next h0 => subst h0; rfl
  · exact State.memRead_ok (by omega)

theorem State.spriteRows_bounds {n : Nat} (h0 : 0 < n) (h : 0xFFF < s.base + n - 1) :
    s.spriteRows n = .error .memBounds := by
  rw [State.spriteRows, if_neg (by omega), State.memRead_bounds h]

/-- Each effect is what `exec` answers. -/
theorem Effect.exec_eq {i : Instr} (h : Effect s i t) : exec i s = .next t := by
  cases h
  case ret h => rw [exec, execRet, State.popPc_ok h, State.complete_ok]
  case retEmpty h => rw [exec, execRet, State.popPc_empty h, State.complete_error]
  case call nnn h => rw [exec, execCall, State.push_ok _ h]; rfl
  case callFull nnn h => rw [exec, execCall, State.push_full _ h]; rfl
  case drw x y n h => rw [exec, execDrw, State.spriteRows_ok h]; rfl
  case drwBounds x y n h0 h => rw [exec, execDrw, State.spriteRows_bounds h0 h]; rfl
  case ldVxK x k h => simp only [exec, execLdVxK, h]
  case ldVxKWait x h => simp only [exec, execLdVxK, h]
  case ldB x h ha => rw [exec, execLdB, State.memWrite_ok h ha]; rfl
  case ldBBounds x h => rw [exec, execLdB, State.memWrite_bounds h]; rfl
  case ldBProtect x h => rw [exec, execLdB, State.memWrite_protect (by rw [length_bcdDigits]; omega) h]; rfl
  case ldMemVx x h ha => rw [exec, execLdMemVx, State.memWrite_ok (by rw [State.length_regsUpTo]; omega) ha]; rfl
  case ldMemVxBounds x h => rw [exec, execLdMemVx, State.memWrite_bounds (by rw [State.length_regsUpTo]; omega)]; rfl
  case ldMemVxProtect x h => rw [exec, execLdMemVx, State.memWrite_protect (by rw [State.length_regsUpTo]; omega) h]; rfl
  case ldVxMem x h => rw [exec, execLdVxMem, State.memRead_ok (by omega)]; rfl
  case ldVxMemBounds x h => rw [exec, execLdVxMem, State.memRead_bounds (by omega)]; rfl
  all_goals rfl

/-- Some effect applies, whatever the instruction and the state. -/
theorem effect_exists (i : Instr) (s : State) : ∃ t, Effect s i t := by
  cases i
  case ret => by_cases h : s.sp.val = 0; exacts [⟨_, .retEmpty h⟩, ⟨_, .ret h⟩]
  case call nnn => by_cases h : s.sp.val < 16; exacts [⟨_, .call nnn h⟩, ⟨_, .callFull nnn (by omega)⟩]
  case drw x y n =>
    by_cases h : n = 0 ∨ s.base + n - 1 ≤ 0xFFF
    exacts [⟨_, .drw x y n h⟩, ⟨_, .drwBounds x y n (by omega) (by omega)⟩]
  case ldVxK x => cases h : s.pressedKey; exacts [⟨_, .ldVxKWait x h⟩, ⟨_, .ldVxK x _ h⟩]
  case ldB x =>
    by_cases h : 0xFFF < s.base + 2
    · exact ⟨_, .ldBBounds x h⟩
    · by_cases ha : s.base < 0x200
      exacts [⟨_, .ldBProtect x ha⟩, ⟨_, .ldB x (by omega) (by omega)⟩]
  case ldMemVx x =>
    by_cases h : 0xFFF < s.base + x.val
    · exact ⟨_, .ldMemVxBounds x h⟩
    · by_cases ha : s.base < 0x200
      exacts [⟨_, .ldMemVxProtect x ha⟩, ⟨_, .ldMemVx x (by omega) (by omega)⟩]
  case ldVxMem x =>
    by_cases h : 0xFFF < s.base + x.val
    exacts [⟨_, .ldVxMemBounds x h⟩, ⟨_, .ldVxMem x (by omega)⟩]
  all_goals exact ⟨_, by constructor⟩

/-- All an instruction can do. -/
theorem exec_effect {i : Instr} (h : exec i s = .next t) : Effect s i t := by
  obtain ⟨u, hu⟩ := effect_exists i s
  have : t = u := Host.Outcome.next.inj (h.symm.trans hu.exec_eq)
  exact this ▸ hu

/-- Every meaning answers a next state: a fatal fault is one too (R256). -/
theorem exec_answers (i : Instr) (s : State) : ∃ t, exec i s = .next t :=
  (effect_exists i s).imp fun _ h => h.exec_eq

/-- The fatal-fault entry as a statement of Safety.lean (R256). -/
theorem State.faultEntry_raise (s : State) (c : Cause) : FaultEntry c s (s.raise c) :=
  ⟨rfl, rfl, rfl, fun p hp => by cases p <;> simp_all [State.same]⟩

end Sys2Proof.Machine
end

