-- ==== Sys2Proof/Laws/PerInstr.lean ====
section
/-! SUPPORT. Laws stated instruction by instruction. -/
namespace Sys2Proof.Laws.EncodesRow

/-- An instruction's line is a line of the opcode map, and its canonical word is one of that line's words: `w &
mask = match` (R100). -/
def Statement (i : Instr) : Prop := i.row ∈ opcodeMap ∧ i.row.hits (encode i) = true

theorem cls : Statement .cls := ⟨by simp [Instr.row, opcodeMap], by decide⟩
theorem ret : Statement .ret := ⟨by simp [Instr.row, opcodeMap], by decide⟩
theorem jp (nnn : Addr) : Statement (.jp nnn) :=
  ⟨by simp [Instr.row, opcodeMap], hits_of_toNat ((and_F000_toNat _).trans (by rw [encode, formatA_toNat]; simp [Instr.row]; omega))⟩
theorem call (nnn : Addr) : Statement (.call nnn) :=
  ⟨by simp [Instr.row, opcodeMap], hits_of_toNat ((and_F000_toNat _).trans (by rw [encode, formatA_toNat]; simp [Instr.row]; omega))⟩
theorem seKk (x : Reg) (kk : Byte) : Statement (.seKk x kk) :=
  ⟨by simp [Instr.row, opcodeMap], hits_of_toNat ((and_F000_toNat _).trans (by rw [encode, formatI_toNat]; simp [Instr.row]; omega))⟩
theorem sneKk (x : Reg) (kk : Byte) : Statement (.sneKk x kk) :=
  ⟨by simp [Instr.row, opcodeMap], hits_of_toNat ((and_F000_toNat _).trans (by rw [encode, formatI_toNat]; simp [Instr.row]; omega))⟩
theorem seVy (x y : Reg) : Statement (.seVy x y) :=
  ⟨by simp [Instr.row, opcodeMap], hits_of_toNat ((and_F000_toNat _).trans (by rw [encode, formatR_toNat]; simp [Instr.row]; omega))⟩
theorem ldKk (x : Reg) (kk : Byte) : Statement (.ldKk x kk) :=
  ⟨by simp [Instr.row, opcodeMap], hits_of_toNat ((and_F000_toNat _).trans (by rw [encode, formatI_toNat]; simp [Instr.row]; omega))⟩
theorem addKk (x : Reg) (kk : Byte) : Statement (.addKk x kk) :=
  ⟨by simp [Instr.row, opcodeMap], hits_of_toNat ((and_F000_toNat _).trans (by rw [encode, formatI_toNat]; simp [Instr.row]; omega))⟩
theorem ldVy (x y : Reg) : Statement (.ldVy x y) :=
  ⟨by simp [Instr.row, opcodeMap], hits_of_toNat ((and_F00F_toNat _).trans (by rw [encode, formatR_toNat]; simp [Instr.row]; omega))⟩
theorem orVy (x y : Reg) : Statement (.orVy x y) :=
  ⟨by simp [Instr.row, opcodeMap], hits_of_toNat ((and_F00F_toNat _).trans (by rw [encode, formatR_toNat]; simp [Instr.row]; omega))⟩
theorem andVy (x y : Reg) : Statement (.andVy x y) :=
  ⟨by simp [Instr.row, opcodeMap], hits_of_toNat ((and_F00F_toNat _).trans (by rw [encode, formatR_toNat]; simp [Instr.row]; omega))⟩
theorem xorVy (x y : Reg) : Statement (.xorVy x y) :=
  ⟨by simp [Instr.row, opcodeMap], hits_of_toNat ((and_F00F_toNat _).trans (by rw [encode, formatR_toNat]; simp [Instr.row]; omega))⟩
theorem addVy (x y : Reg) : Statement (.addVy x y) :=
  ⟨by simp [Instr.row, opcodeMap], hits_of_toNat ((and_F00F_toNat _).trans (by rw [encode, formatR_toNat]; simp [Instr.row]; omega))⟩
theorem sub (x y : Reg) : Statement (.sub x y) :=
  ⟨by simp [Instr.row, opcodeMap], hits_of_toNat ((and_F00F_toNat _).trans (by rw [encode, formatR_toNat]; simp [Instr.row]; omega))⟩
theorem shr (x y : Reg) : Statement (.shr x y) :=
  ⟨by simp [Instr.row, opcodeMap], hits_of_toNat ((and_F00F_toNat _).trans (by rw [encode, formatR_toNat]; simp [Instr.row]; omega))⟩
theorem subn (x y : Reg) : Statement (.subn x y) :=
  ⟨by simp [Instr.row, opcodeMap], hits_of_toNat ((and_F00F_toNat _).trans (by rw [encode, formatR_toNat]; simp [Instr.row]; omega))⟩
theorem shl (x y : Reg) : Statement (.shl x y) :=
  ⟨by simp [Instr.row, opcodeMap], hits_of_toNat ((and_F00F_toNat _).trans (by rw [encode, formatR_toNat]; simp [Instr.row]; omega))⟩
theorem sneVy (x y : Reg) : Statement (.sneVy x y) :=
  ⟨by simp [Instr.row, opcodeMap], hits_of_toNat ((and_F000_toNat _).trans (by rw [encode, formatR_toNat]; simp [Instr.row]; omega))⟩
theorem ldI (nnn : Addr) : Statement (.ldI nnn) :=
  ⟨by simp [Instr.row, opcodeMap], hits_of_toNat ((and_F000_toNat _).trans (by rw [encode, formatA_toNat]; simp [Instr.row]; omega))⟩
theorem jpV0 (nnn : Addr) : Statement (.jpV0 nnn) :=
  ⟨by simp [Instr.row, opcodeMap], hits_of_toNat ((and_F000_toNat _).trans (by rw [encode, formatA_toNat]; simp [Instr.row]; omega))⟩
theorem rnd (x : Reg) (kk : Byte) : Statement (.rnd x kk) :=
  ⟨by simp [Instr.row, opcodeMap], hits_of_toNat ((and_F000_toNat _).trans (by rw [encode, formatI_toNat]; simp [Instr.row]; omega))⟩
theorem drw (x y : Reg) (n : Nat) : Statement (.drw x y n) :=
  ⟨by simp [Instr.row, opcodeMap], hits_of_toNat ((and_F000_toNat _).trans (by rw [encode, formatR_toNat]; simp [Instr.row]; omega))⟩
theorem skp (x : Reg) : Statement (.skp x) :=
  ⟨by simp [Instr.row, opcodeMap], hits_of_toNat ((and_F0FF_toNat _).trans (by rw [encode, formatI_toNat]; simp [Instr.row]; omega))⟩
theorem sknp (x : Reg) : Statement (.sknp x) :=
  ⟨by simp [Instr.row, opcodeMap], hits_of_toNat ((and_F0FF_toNat _).trans (by rw [encode, formatI_toNat]; simp [Instr.row]; omega))⟩
theorem ldVxDt (x : Reg) : Statement (.ldVxDt x) :=
  ⟨by simp [Instr.row, opcodeMap], hits_of_toNat ((and_F0FF_toNat _).trans (by rw [encode, formatI_toNat]; simp [Instr.row]; omega))⟩
theorem ldVxK (x : Reg) : Statement (.ldVxK x) :=
  ⟨by simp [Instr.row, opcodeMap], hits_of_toNat ((and_F0FF_toNat _).trans (by rw [encode, formatI_toNat]; simp [Instr.row]; omega))⟩
theorem ldDtVx (x : Reg) : Statement (.ldDtVx x) :=
  ⟨by simp [Instr.row, opcodeMap], hits_of_toNat ((and_F0FF_toNat _).trans (by rw [encode, formatI_toNat]; simp [Instr.row]; omega))⟩
theorem ldStVx (x : Reg) : Statement (.ldStVx x) :=
  ⟨by simp [Instr.row, opcodeMap], hits_of_toNat ((and_F0FF_toNat _).trans (by rw [encode, formatI_toNat]; simp [Instr.row]; omega))⟩
theorem addI (x : Reg) : Statement (.addI x) :=
  ⟨by simp [Instr.row, opcodeMap], hits_of_toNat ((and_F0FF_toNat _).trans (by rw [encode, formatI_toNat]; simp [Instr.row]; omega))⟩
theorem ldF (x : Reg) : Statement (.ldF x) :=
  ⟨by simp [Instr.row, opcodeMap], hits_of_toNat ((and_F0FF_toNat _).trans (by rw [encode, formatI_toNat]; simp [Instr.row]; omega))⟩
theorem ldB (x : Reg) : Statement (.ldB x) :=
  ⟨by simp [Instr.row, opcodeMap], hits_of_toNat ((and_F0FF_toNat _).trans (by rw [encode, formatI_toNat]; simp [Instr.row]; omega))⟩
theorem ldMemVx (x : Reg) : Statement (.ldMemVx x) :=
  ⟨by simp [Instr.row, opcodeMap], hits_of_toNat ((and_F0FF_toNat _).trans (by rw [encode, formatI_toNat]; simp [Instr.row]; omega))⟩
theorem ldVxMem (x : Reg) : Statement (.ldVxMem x) :=
  ⟨by simp [Instr.row, opcodeMap], hits_of_toNat ((and_F0FF_toNat _).trans (by rw [encode, formatI_toNat]; simp [Instr.row]; omega))⟩

/-- The lemmas above, for whichever instruction. -/
theorem every : ∀ i : Instr, Statement i
  | .cls => cls
  | .ret => ret
  | .jp nnn => jp nnn
  | .call nnn => call nnn
  | .seKk x kk => seKk x kk
  | .sneKk x kk => sneKk x kk
  | .seVy x y => seVy x y
  | .ldKk x kk => ldKk x kk
  | .addKk x kk => addKk x kk
  | .ldVy x y => ldVy x y
  | .orVy x y => orVy x y
  | .andVy x y => andVy x y
  | .xorVy x y => xorVy x y
  | .addVy x y => addVy x y
  | .sub x y => sub x y
  | .shr x y => shr x y
  | .subn x y => subn x y
  | .shl x y => shl x y
  | .sneVy x y => sneVy x y
  | .ldI nnn => ldI nnn
  | .jpV0 nnn => jpV0 nnn
  | .rnd x kk => rnd x kk
  | .drw x y n => drw x y n
  | .skp x => skp x
  | .sknp x => sknp x
  | .ldVxDt x => ldVxDt x
  | .ldVxK x => ldVxK x
  | .ldDtVx x => ldDtVx x
  | .ldStVx x => ldStVx x
  | .addI x => addI x
  | .ldF x => ldF x
  | .ldB x => ldB x
  | .ldMemVx x => ldMemVx x
  | .ldVxMem x => ldVxMem x

/-- An instruction is encoded as its line says. -/
theorem encodedAs (i : Instr) : i.EncodedAs i.row.pattern i.row.mask :=
  ⟨beq_iff_eq.mp (every i).2, fun _ h => beq_iff_eq.mp (decodeWord_row h)⟩

end Sys2Proof.Laws.EncodesRow
end

