-- ==== Sys2Proof/Laws/Step.lean ====
section
/-! SUPPORT. What a step can do, said once: the inversion lemmas of the step cycle. -/
namespace Sys2Proof.Machine

variable {s t : State}

/-- The fetch (R67, R70): the word at `PC`, or out of bounds. -/
theorem State.fetchWord_eq (s : State) :
    s.fetchWord = if 0xFFF < s.pc.toNat + 1 then .error .memBounds else .ok s.wordAtPc := by
  by_cases h : 0xFFF < s.pc.toNat + 1
  · rw [if_pos h, State.fetchWord, State.memRead_bounds (by omega)]
    rfl
  · rw [if_neg h, State.fetchWord, State.memRead_ok (by omega)]
    rfl

theorem State.pastEnd_iff : s.pastEnd = true ↔ s.progEnd.toNat ≤ s.pc.toNat := decide_eq_true_iff

/-- What a step does, by cases (R122): every step answers a next state, and it is one of these. -/
theorem step_cases (h : step s = .next t) :
    (s.es = .halted ∧ t = s.emit none) ∨
    (s.es = .waitingForKey ∧ t = (s.emit none).pollKeys.tick) ∨
    ((s.es = .ready ∨ s.es = .running) ∧
      ((s.progEnd.toNat ≤ s.pc.toNat ∧ t = (s.emit none).setEs .halted) ∨
       (s.pc.toNat < s.progEnd.toNat ∧ 0xFFF < s.pc.toNat + 1 ∧ t = (s.emit none).raise .memBounds) ∨
       (s.fetches ∧
         ((∃ e, decodeWord s.wordAtPc = .error e ∧
             t = (((s.emit none).setEs .running).badOpcode s.wordAtPc).tick) ∨
          (∃ i u, decodeWord s.wordAtPc = .ok i ∧ exec i ((s.emit none).setEs .running) = .next u ∧
             t = u.finish))))) := by
  have run : (s.es = .ready ∨ s.es = .running) → runStep (s.emit none) = .next t →
      (s.progEnd.toNat ≤ s.pc.toNat ∧ t = (s.emit none).setEs .halted) ∨
       (s.pc.toNat < s.progEnd.toNat ∧ 0xFFF < s.pc.toNat + 1 ∧ t = (s.emit none).raise .memBounds) ∨
       (s.fetches ∧
         ((∃ e, decodeWord s.wordAtPc = .error e ∧
             t = (((s.emit none).setEs .running).badOpcode s.wordAtPc).tick) ∨
          (∃ i u, decodeWord s.wordAtPc = .ok i ∧ exec i ((s.emit none).setEs .running) = .next u ∧
             t = u.finish))) := by
    intro hes h
    unfold runStep at h
    split at h
    · next hp =>
      exact .inl ⟨of_decide_eq_true hp, by simpa using h.symm⟩
    · next hp =>
      have hlt : s.pc.toNat < s.progEnd.toNat := 
        Nat.lt_of_not_le fun hle => hp (decide_eq_true hle)
      rw [State.fetchWord_eq] at h
      by_cases hb : 0xFFF < s.pc.toNat + 1
      · rw [if_pos (by simpa using hb)] at h
        exact .inr (.inl ⟨hlt, hb, by simpa using h.symm⟩)
      · rw [if_neg (by simpa using hb)] at h
        refine .inr (.inr ⟨⟨hes, hlt, by omega⟩, ?_⟩)
        change execWord s.wordAtPc _ = _ at h
        unfold execWord at h
        cases hd : decodeWord s.wordAtPc with
        | error e =>
          rw [hd] at h
          exact .inl ⟨e, rfl, by simpa using h.symm⟩
        | ok i =>
          rw [hd] at h
          obtain ⟨u, hu⟩ := exec_answers i ((s.emit none).setEs .running)
          simp only [hu] at h
          exact .inr ⟨i, u, rfl, hu, by simpa using h.symm⟩
  unfold step cycle at h
  cases hes : s.es with
  | halted => rw [hes] at h; exact .inl ⟨rfl, by simpa using h.symm⟩
  | waitingForKey => rw [hes] at h; exact .inr (.inl ⟨rfl, by simpa using h.symm⟩)
  | ready => rw [hes] at h; exact .inr (.inr ⟨.inl rfl, run (.inl hes) h⟩)
  | running => rw [hes] at h; exact .inr (.inr ⟨.inr rfl, run (.inr hes) h⟩)

/-! The same cases as equations: which of them a state is in. -/

theorem step_halted (h : s.es = .halted) : step s = .next (s.emit none) := by
  unfold step cycle
  rw [h]

theorem step_waiting (h : s.es = .waitingForKey) : step s = .next (s.emit none).pollKeys.tick := by
  unfold step cycle
  rw [h]

theorem step_active (h : s.es = .ready ∨ s.es = .running) : step s = runStep (s.emit none) := by
  unfold step cycle
  rcases h with h | h <;> rw [h]

theorem step_pastEnd (h : s.es = .ready ∨ s.es = .running) (hp : s.progEnd.toNat ≤ s.pc.toNat) :
    step s = .next ((s.emit none).setEs .halted) := by
  rw [step_active h, runStep, if_pos ((State.pastEnd_iff (s := s.emit none)).mpr hp)]

theorem step_fetchFault (h : s.es = .ready ∨ s.es = .running) (hlt : s.pc.toNat < s.progEnd.toNat)
    (hb : 0xFFF < s.pc.toNat + 1) : step s = .next ((s.emit none).raise .memBounds) := by
  rw [step_active h, runStep, if_neg fun hp => Nat.not_le_of_lt hlt ((State.pastEnd_iff (s := s.emit none)).mp hp),
    State.fetchWord_eq, if_pos (show 0xFFF < (s.emit none).pc.toNat + 1 from hb)]

theorem step_fetches (h : s.fetches) : step s = execWord s.wordAtPc ((s.emit none).setEs .running) := by
  obtain ⟨hes, hlt, hb⟩ := h
  rw [step_active hes, runStep, if_neg fun hp => Nat.not_le_of_lt hlt ((State.pastEnd_iff (s := s.emit none)).mp hp),
    State.fetchWord_eq, if_neg (show ¬ 0xFFF < (s.emit none).pc.toNat + 1 from Nat.not_lt_of_le hb)]
  rfl

theorem execWord_ok {w : Word} {i : Instr} (hd : decodeWord w = .ok i) (he : exec i s = .next t) :
    execWord w s = .next t.finish := by
  unfold execWord
  rw [hd]
  simp only [he]

theorem execWord_bad {w : Word} {e : Reject} (hd : decodeWord w = .error e) :
    execWord w s = .next (s.badOpcode w).tick := by
  unfold execWord
  rw [hd]

/-- A waiting step's poll (R123). -/
theorem State.pollKeys_cases (s : State) :
    (∃ k, s.pressedKey = some k ∧ s.pollKeys = (s.putResult s.waitX (keyByte k)).setEs .running) ∨
    (s.pressedKey = none ∧ s.pollKeys = s) := by
  unfold State.pollKeys
  cases s.pressedKey with
  | none => exact .inr ⟨rfl, rfl⟩
  | some k => exact .inl ⟨k, rfl, rfl⟩

/-- A run of one step more (Host/Core.lean). -/
theorem core_run_succ (m : Nat) (h : step s = .next t) : Sys2Proof.core.run (m + 1) s = Sys2Proof.core.run m t := by
  have hs : Sys2Proof.core.step s = .next t := h
  simp only [Host.Core.run]
  rw [hs]

/-- A step on an instruction, as one equation (R122, R126, R130). -/
theorem step_executes {i : Instr} (h : s.executes i) :
    ∃ t, Effect ((s.emit none).setEs .running) i t ∧ step s = .next t.finish := by
  obtain ⟨t, ht⟩ := effect_exists i ((s.emit none).setEs .running)
  exact ⟨t, ht, by rw [step_fetches h.1, execWord_ok h.2 ht.exec_eq]⟩

theorem State.finish_halted (h : s.es = .halted) : s.finish = s := if_pos h

theorem State.finish_other (h : s.es ≠ .halted) : s.finish = s.tick := if_neg h

end Sys2Proof.Machine
end

