-- ==== Sys2Proof/Tests/Slice0.lean ====
section
/-! SUPPORT. Tests on single steps, their expected results taken from spec/95_test_vectors.md (S and T numbers) or
from the rule named; then, for each statement with hypotheses, a concrete case that meets them. -/
namespace Sys2Proof.Tests
open Sys2Proof Sys2Proof.Machine

/-! ### The small states the tests start from -/

/-- The customary font of R31, glyphs 0 to F. -/
def fontBytes : List Byte :=
  [0xF0, 0x90, 0x90, 0x90, 0xF0, 0x20, 0x60, 0x20, 0x20, 0x70, 0xF0, 0x10, 0xF0, 0x80, 0xF0] ++
  [0xF0, 0x10, 0xF0, 0x10, 0xF0, 0x90, 0x90, 0xF0, 0x10, 0x10, 0xF0, 0x80, 0xF0, 0x10, 0xF0] ++
  [0xF0, 0x80, 0xF0, 0x90, 0xF0, 0xF0, 0x10, 0x20, 0x40, 0x40, 0xF0, 0x90, 0xF0, 0x90, 0xF0] ++
  [0xF0, 0x90, 0xF0, 0x10, 0xF0, 0xF0, 0x90, 0xF0, 0x90, 0x90, 0xE0, 0x90, 0xE0, 0x90, 0xE0] ++
  [0xF0, 0x80, 0x80, 0x80, 0xF0, 0xE0, 0x90, 0x90, 0x90, 0xE0, 0xF0, 0x80, 0xF0, 0x80, 0xF0] ++
  [0xF0, 0x80, 0xF0, 0x80, 0x80]

/-- A machine with these edge policies and that font, right after reset. -/
def fresh (wrapX wrapY : Bool) : State := State.resetWith ⟨wrapX, wrapY, Vector.ofFn fun j => fontBytes.getD j.val 0⟩

/-- The start of a vector: running, one instruction of room at 0x200. -/
def bench : State := { fresh true true with es := .running, progEnd := 0x202 }

/-- `bench` with registers set. -/
def withRegs (s : State) (rs : List (Reg × Byte)) : State := rs.foldl (fun s r => s.setReg r.1 r.2) s

/-- Some cells of the screen set to 1. -/
def withCells (s : State) (cs : List (Fin 32 × Fin 64)) : State :=
  { s with fb := (cs.foldl (fun (cv : Canvas) c => cv.flip c.1 c.2) ⟨s.fb, false⟩).fb }

/-- The state one step leads to. -/
def next (s : State) : State :=
  match step s with
  | .next t => t
  | .fault r => nomatch r
  | .refused _ => s

/-- The state after the word `w` runs in `s`. -/
def after (s : State) (w : Nat) : State := next (s.withFetchWord 16 w)

/-- The cells that are 1, as (row, column), in reading order. -/
def cells (s : State) : List (Nat × Nat) :=
  s.fb.toList.zipIdx.flatMap fun row => row.1.toList.zipIdx.filterMap fun cell =>
    if cell.1 then some (row.2, cell.2) else none

/-! ### Well-formedness -/

/-- The one check: a term with 16 rows is refused, one with 15 is not (R92). -/
theorem test_wellFormed_rows : (Instr.drw 0 0 16).wellFormed = false ∧ (Instr.drw 0 0 15).wellFormed = true := by decide

/-! ### Decoding: one word of each line of R100, written out bit by bit -/

theorem test_decode_control :
    decodeTableWord 16 0b0000000011100000 = some .cls ∧ decodeTableWord 16 0b0000000011101110 = some .ret ∧
    decodeTableWord 16 0b0001001000110100 = some (.jp 0x234) ∧ decodeTableWord 16 0b0010001101000101 = some (.call 0x345) ∧
    decodeTableWord 16 0b1011001100000001 = some (.jpV0 0x301) := by decide

theorem test_decode_skips :
    decodeTableWord 16 0b0011001100101010 = some (.seKk 3 0x2A) ∧ decodeTableWord 16 0b0100001100101011 = some (.sneKk 3 0x2B) ∧
    decodeTableWord 16 0b0101000100100000 = some (.seVy 1 2) ∧ decodeTableWord 16 0b1001001000010000 = some (.sneVy 2 1) := by
  decide

theorem test_decode_loads :
    decodeTableWord 16 0b0110101000000101 = some (.ldKk 10 0x05) ∧ decodeTableWord 16 0b0111000111111111 = some (.addKk 1 0xFF) ∧
    decodeTableWord 16 0b1100001100001111 = some (.rnd 3 0x0F) ∧ decodeTableWord 16 0b1010001011110000 = some (.ldI 0x2F0) ∧
    decodeTableWord 16 0b1101000100100101 = some (.drw 1 2 5) := by decide

theorem test_decode_family8 :
    decodeTableWord 16 0b1000000100100000 = some (.ldVy 1 2) ∧ decodeTableWord 16 0b1000000100100001 = some (.orVy 1 2) ∧
    decodeTableWord 16 0b1000000100100010 = some (.andVy 1 2) ∧ decodeTableWord 16 0b1000000100100011 = some (.xorVy 1 2) ∧
    decodeTableWord 16 0b1000000100100100 = some (.addVy 1 2) ∧ decodeTableWord 16 0b1000000100100101 = some (.sub 1 2) ∧
    decodeTableWord 16 0b1000000100100110 = some (.shr 1 2) ∧ decodeTableWord 16 0b1000000100100111 = some (.subn 1 2) ∧
    decodeTableWord 16 0b1000000100101110 = some (.shl 1 2) := by decide

theorem test_decode_familyE :
    decodeTableWord 16 0b1110010110011110 = some (.skp 5) ∧ decodeTableWord 16 0b1110010110100001 = some (.sknp 5) := by decide

theorem test_decode_familyF :
    decodeTableWord 16 0b1111011000000111 = some (.ldVxDt 6) ∧ decodeTableWord 16 0b1111011000001010 = some (.ldVxK 6) ∧
    decodeTableWord 16 0b1111011000010101 = some (.ldDtVx 6) ∧ decodeTableWord 16 0b1111011000011000 = some (.ldStVx 6) ∧
    decodeTableWord 16 0b1111011000011110 = some (.addI 6) ∧ decodeTableWord 16 0b1111011000101001 = some (.ldF 6) ∧
    decodeTableWord 16 0b1111011000110011 = some (.ldB 6) ∧ decodeTableWord 16 0b1111011001010101 = some (.ldMemVx 6) ∧
    decodeTableWord 16 0b1111011001100101 = some (.ldVxMem 6) := by decide

/-- Ignored bits (R95, R99; T9, T10) and refused words (R104; T2, T3, T11, T12). -/
theorem test_decode_ignored_and_refused :
    decodeTableWord 16 0x0AE0 = some .cls ∧ decodeTableWord 16 0x0FEE = some .ret ∧ decodeTableWord 16 0x5127 = some (.seVy 1 2) ∧
    decodeTableWord 16 0x912F = some (.sneVy 1 2) ∧ decodeTableWord 16 0x8128 = none ∧ decodeTableWord 16 0x812F = none ∧
    decodeTableWord 16 0x0000 = none ∧ decodeTableWord 16 0x00E1 = none ∧ decodeTableWord 16 0xE19F = none ∧
    decodeTableWord 16 0xF1FF = none := by decide

/-- Bytes in memory order, the rest of the stream left over; one byte is no word (R70, R90). -/
theorem test_decode_bytes :
    (decodeBytes [0x12, 0x34, 0xAB]).toOption = some (.jp 0x234, [0xAB]) ∧ (decodeBytes [0x12]).toOption = none := by decide

/-! ### Control transfer -/

/-- T20. -/
theorem test_ret_underflow : let t := after { bench with dt := 2 } 0x00EE
    t.es = .halted ∧ t.fault.code = 1 ∧ t.faultPc = 0x200 ∧ t.pc = 0x200 ∧ t.sp = 0 ∧ t.dt = 2 := by decide
/-- T21. -/
theorem test_ret_pops : let t := after { bench with sp := 2, stack := bench.stack.set 1 0x0456 } 0x00EE
    t.sp = 1 ∧ t.pc = 0x456 ∧ t.stack[1] = 0x0456 := by decide
/-- T23. -/
theorem test_jp_self : let t := after { bench with dt := 5 } 0x1200
    t.pc = 0x200 ∧ t.dt = 4 ∧ t.es = .running := by decide
/-- T24. -/
theorem test_call_last_slot : let t := after { bench with sp := 15 } 0x2300
    t.stack[15] = 0x0202 ∧ t.sp = 16 ∧ t.pc = 0x300 := by decide
/-- T25. -/
theorem test_call_overflow : let t := after { bench with sp := 16 } 0x2300
    t.es = .halted ∧ t.fault.code = 2 ∧ t.faultPc = 0x200 ∧ t.sp = 16 ∧ t.stack = bench.stack := by decide
/-- T27: the highest target. -/
theorem test_jpV0_highest : (after (withRegs bench [(0, 0xFF)]) 0xBFFF).pc = 0x10FE := by decide
/-- T28. -/
theorem test_seKk : (after (withRegs bench [(3, 0x2A)]) 0x332A).pc = 0x204 ∧ (after (withRegs bench [(3, 0x2B)]) 0x332A).pc = 0x202 := by
  decide
/-- T29. -/
theorem test_sneKk : (after (withRegs bench [(3, 0x2A)]) 0x432A).pc = 0x202 ∧ (after bench 0x432A).pc = 0x204 := by decide
/-- T30, and T10 for the ignored nibble. -/
theorem test_seVy : (after (withRegs bench [(1, 7), (2, 7)]) 0x5120).pc = 0x204 ∧
    (after (withRegs bench [(1, 7), (2, 8)]) 0x5120).pc = 0x202 ∧ (after (withRegs bench [(1, 9), (2, 9)]) 0x5127).pc = 0x204 := by
  decide
/-- T31, T32. -/
theorem test_sneVy : (after (withRegs bench [(1, 7), (2, 8)]) 0x9120).pc = 0x204 ∧ (after bench 0x9330).pc = 0x202 := by decide

/-! ### Register load and ALU -/

/-- T41. -/
theorem test_ldKk : (after bench 0x6FFF).reg VF = 0xFF := by decide
/-- T42. -/
theorem test_addKk_wraps : let t := after (withRegs bench [(1, 0xFF)]) 0x7102
    t.reg 1 = 0x01 ∧ t.reg VF = 0 := by decide
/-- T44. -/
theorem test_ldVy : (after (withRegs bench [(2, 0x33)]) 0x8120).reg 1 = 0x33 := by decide
/-- T45. -/
theorem test_or_keeps_flag : let t := after (withRegs bench [(1, 0xF0), (2, 0x0F), (VF, 1)]) 0x8121
    t.reg 1 = 0xFF ∧ t.reg VF = 1 := by decide
/-- T46. -/
theorem test_and_keeps_flag : let t := after (withRegs bench [(1, 0xF3), (2, 0x3F), (VF, 1)]) 0x8122
    t.reg 1 = 0x33 ∧ t.reg VF = 1 := by decide
/-- T47, T48. -/
theorem test_xor : (after (withRegs bench [(1, 0xFF), (2, 0x0F)]) 0x8123).reg 1 = 0xF0 ∧
    (after (withRegs bench [(1, 0x5A)]) 0x8113).reg 1 = 0 := by decide
/-- S3, T49. -/
theorem test_add_carry : let t := after (withRegs bench [(1, 0xFF), (2, 0x01)]) 0x8124
    t.reg 1 = 0 ∧ t.reg VF = 1 ∧ (after (withRegs bench [(1, 0x7F), (2, 0x80)]) 0x8124).reg VF = 0 := by decide
/-- T52, T54: VF as destination and as source. -/
theorem test_add_flag_register : (after (withRegs bench [(VF, 0xFF), (1, 1)]) 0x8F14).reg VF = 1 ∧
    (after (withRegs bench [(VF, 1), (1, 0x10)]) 0x81F4).reg 1 = 0x11 := by decide
/-- S4, T55. -/
theorem test_sub : let t := after (withRegs bench [(1, 3), (2, 5)]) 0x8125
    t.reg 1 = 0xFE ∧ t.reg VF = 0 ∧ (after (withRegs bench [(1, 7), (2, 7)]) 0x8125).reg VF = 1 := by decide
/-- T57. -/
theorem test_sub_flag_destination : (after (withRegs bench [(VF, 5), (1, 3)]) 0x8F15).reg VF = 1 := by decide
/-- T59: `y` has no part. -/
theorem test_shr : let t := after (withRegs bench [(1, 0x04), (2, 0xFF)]) 0x8126
    t.reg 1 = 0x02 ∧ t.reg VF = 0 ∧ t.reg 2 = 0xFF := by decide
/-- T61. -/
theorem test_shr_flag_destination : (after (withRegs bench [(VF, 3)]) 0x8F06).reg VF = 1 := by decide
/-- T63, T62. -/
theorem test_subn : let t := after (withRegs bench [(1, 5), (2, 3)]) 0x8127
    t.reg 1 = 0xFE ∧ t.reg VF = 0 ∧ (after (withRegs bench [(1, 3), (2, 5)]) 0x8127).reg 1 = 2 := by decide
/-- T65, T67. -/
theorem test_shl : let t := after (withRegs bench [(1, 0x81)]) 0x810E
    t.reg 1 = 0x02 ∧ t.reg VF = 1 ∧ (after (withRegs bench [(1, 0xFF)]) 0x812E).reg 1 = 0xFE := by decide
/-- R176: the draw that comes next, masked; whatever the draw is (log entry 2). -/
theorem test_rnd : (after bench 0xC30F).reg 3 = Config.draw 0 &&& 0x0F ∧ (after bench 0xC30F).draws = 1 := ⟨rfl, rfl⟩

/-! ### Index register, loads and stores -/

/-- T80. -/
theorem test_ldI : (after bench 0xA2F0).i = 0x02F0 := by decide
/-- T82, T83. -/
theorem test_addI : let t := after (withRegs { bench with i := 0x0FFF } [(2, 1)]) 0xF21E
    t.i = 0x1000 ∧ t.reg VF = 0 ∧ (after (withRegs { bench with i := 0xFFFF } [(2, 2)]) 0xF21E).i = 1 := by decide
/-- T84. -/
theorem test_ldF : (after (withRegs bench [(0, 0x0F)]) 0xF029).i = 0x009B ∧ (after (withRegs bench [(0, 0x1A)]) 0xF029).i = 0x0082 := by
  decide
/-- S6, T86: at the top of memory. -/
theorem test_ldB : let t := after (withRegs { bench with i := 0xFFD } [(3, 0xFE)]) 0xF333
    t.readBytes 0xFFD 3 = [2, 5, 4] ∧ t.pc = 0x202 ∧ t.i = 0xFFD := by decide
/-- T87, T88: nothing is written. -/
theorem test_ldB_faults : let t := after { bench with i := 0xFFE } 0xF333; let u := after { bench with i := 0x1FF } 0xF333
    t.fault.code = 3 ∧ t.readBytes 0xFFE 2 = [0, 0] ∧ u.fault.code = 4 ∧ u.readBytes 0x1FF 3 = [0, 0xF3, 0x33] := by decide
/-- T90. -/
theorem test_ldMemVx : let t := after (withRegs { bench with i := 0x300 } [(0, 0x11), (1, 0x22), (2, 0x33)]) 0xF155
    t.readBytes 0x300 3 = [0x11, 0x22, 0] ∧ t.i = 0x300 := by decide
/-- T92, T93. -/
theorem test_ldMemVx_faults : (after { bench with i := 0xFF1 } 0xFF55).fault.code = 3 ∧ (after { bench with i := 0x1FF } 0xF155).fault.code = 4 := by
  decide
/-- T95: the font can be read. -/
theorem test_ldVxMem_font : (after { bench with i := 0x050 } 0xF465).v.toList.take 6 = [0xF0, 0x90, 0x90, 0x90, 0xF0, 0] := by decide
/-- T97: no register changes. -/
theorem test_ldVxMem_bounds : let t := after (withRegs { bench with i := 0xFFF } [(0, 9)]) 0xF165
    t.fault.code = 3 ∧ t.es = .halted ∧ t.reg 0 = 9 := by decide

/-! ### Display -/

/-- T110. -/
theorem test_cls : let t := after (withCells (withRegs bench [(VF, 1)]) [(0, 0), (31, 63)]) 0x00E0
    cells t = [] ∧ t.dirty = true ∧ t.reg VF = 1 ∧ t.pc = 0x202 := by decide
/-- R216 (T121): the four edge policies. -/
theorem test_drw_edges :
    let corner (wx wy : Bool) : State :=
      withRegs ({ fresh wx wy with i := 0x300 }.storeBytes 0x300 [0xC0, 0x81]) [(0, 62), (1, 31)]
    cells (after (corner true true) 0xD012) = [(0, 5), (0, 62), (31, 62), (31, 63)] ∧
    cells (after (corner false false) 0xD012) = [(31, 62), (31, 63)] ∧
    cells (after (corner true false) 0xD012) = [(31, 62), (31, 63)] ∧
    cells (after (corner false true) 0xD012) = [(0, 62), (31, 62), (31, 63)] := by decide
/-- T113, T122: the collision flag, and VF as a coordinate. -/
theorem test_drw_collision :
    let t := after (withCells ({ bench with i := 0x300 }.storeBytes 0x300 [0xC0]) [(0, 1)]) 0xD011
    let u := after (withRegs ({ bench with i := 0x300 }.storeBytes 0x300 [0x80]) [(VF, 5), (1, 2)]) 0xDF11
    cells t = [(0, 0)] ∧ t.reg VF = 1 ∧ t.dirty = true ∧ cells u = [(2, 5)] ∧ u.reg VF = 0 := by decide

/-! ### Keypad and timers -/

/-- T130, T132. -/
theorem test_skp : (after (withRegs (bench.setKey 7 true) [(0, 0x17)]) 0xE09E).pc = 0x204 ∧ (after (withRegs bench [(0, 7)]) 0xE09E).pc = 0x202 := by
  decide
/-- T131. -/
theorem test_sknp : (after (withRegs bench [(0, 7)]) 0xE0A1).pc = 0x204 ∧ (after (withRegs (bench.setKey 7 true) [(0, 7)]) 0xE0A1).pc = 0x202 := by
  decide
/-- T138. -/
theorem test_ldVxDt : let t := after { bench with dt := 6 } 0xF107
    t.reg 1 = 6 ∧ t.dt = 5 := by decide
/-- T140. -/
theorem test_ldDtVx : (after (withRegs bench [(0, 7)]) 0xF015).dt = 6 ∧ (after bench 0xF015).dt = 0 := by decide
/-- T141. -/
theorem test_ldStVx : (after (withRegs bench [(2, 0x10)]) 0xF218).st = 0x0F := by decide
/-- T133 to T135. -/
theorem test_ldVxK_waits : let t := after { bench with dt := 2 } 0xF30A; let u := next ((next t).setKey 9 true)
    t.es = .waitingForKey ∧ t.waitX = 3 ∧ t.pc = 0x200 ∧ t.dt = 1 ∧
    u.reg 3 = 9 ∧ u.pc = 0x202 ∧ u.es = .running ∧ u.dt = 0 := by decide
/-- T136. -/
theorem test_ldVxK_at_once : let t := after ((bench.setKey 4 true).setKey 2 true) 0xF30A
    t.reg 3 = 2 ∧ t.pc = 0x202 ∧ t.es = .running := by decide

/-! ### The step cycle and the host operations -/

/-- T1. -/
theorem test_step_unloaded : step State.reset = .next (State.reset.setEs .halted) := rfl
/-- T2. -/
theorem test_step_badOpcode : let t := after { bench with dt := 3 } 0x8128
    t.event = some ⟨0x200, 0x8128⟩ ∧ t.pc = 0x202 ∧ t.dt = 2 ∧ t.es = .running := by decide
/-- T4, T5. -/
theorem test_step_top : let t := next { bench with pc := 0xFFF, progEnd := 0x1000, dt := 3 }
    t.fault.code = 3 ∧ t.faultPc = 0xFFF ∧ t.dt = 3 ∧
    (next { bench with pc := 0x1000, progEnd := 0x1000, dt := 3 }).fault.code = 0 := by decide
/-- T7: an odd `PC`. -/
theorem test_step_odd : let t := next { bench.storeBytes 0x201 [0x60, 0x07] with pc := 0x201, progEnd := 0x204 }
    t.reg 0 = 7 ∧ t.pc = 0x203 := by decide
/-- T89: an instruction overwrites itself; memory stays canonical. -/
theorem test_memory_canonical : let t := after (withRegs { bench with i := 0x200 } [(3, 42)]) 0xF333
    t.mem = [(0x201, 4), (0x202, 2)] ∧ t.mem.wf t.straps.font := by decide
/-- S8. -/
theorem test_loadProgram : ∃ t, (fresh true true).loadProgram [0x12, 0x00, 0xAB] = .next (t, .success) ∧
    t.mem = [(0x200, 0x12), (0x202, 0xAB)] ∧ t.progEnd = 0x203 ∧ t.es = .ready := ⟨_, rfl, by decide, rfl, rfl⟩
/-- T152. -/
theorem test_reset_after_fault :
    { bench with es := .halted, fault := .stackUnderflow, faultPc := 0x200 }.hostReset = fresh true true := rfl
/-- T154. -/
theorem test_setKey : (bench.setKey 15 true).key 15 = true ∧ (bench.setKey 15 true).setKey 15 false = bench := ⟨rfl, rfl⟩
/-- What a reset and a word placed by `withFetchWord` need: the very next step runs it. -/
theorem test_placed_after_reset : (after State.reset 0x6A05).reg 10 = 5 := by decide

/-! ### Hypotheses are met

For each statement of Obligations.lean that has hypotheses: concrete states and operands that meet them together, one
per clause, at the boundary values of a range. -/

/-- The state an Fx0A that waits leads to; it is no reset state. -/
def waiting : State := after bench 0xF30A

theorem waiting_sound : Sound waiting where
  memCanonical := by decide
  reservedKept := by decide
  progEndRange := by decide
  pcRange := by decide
  stackRange := by decide
  faultRecord := by decide
  waiting := fun _ => ⟨by decide, by rfl⟩
  ready := by decide
  eventRunning := by decide

/-- `w` placed where `bench` fetches next. -/
def at200 (w : Nat) : State := bench.withFetchWord 16 w

/-- Halted by a fault at 0x200. -/
def halted : State := bench.raise .stackUnderflow

theorem witness_HostOperationsKeepSound :
    Sound waiting ∧ ∃ t, (fresh true true).loadProgram [0x12, 0x00] = .next (t, .success) := ⟨waiting_sound, _, rfl⟩

theorem witness_LoadProgramCopiesVerbatim : (fresh true true).es = .ready ∧
    (List.replicate 3584 (0 : Byte)).length ≤ 3584 ∧ 3583 < (List.replicate 3584 (0 : Byte)).length ∧
    3584 < (List.replicate 3585 (0 : Byte)).length := 
  ⟨rfl, Nat.le_of_eq List.length_replicate, by rw [List.length_replicate]; omega, by rw [List.length_replicate]; omega⟩

theorem witness_LoadProgramOnlyWhileReady : bench.es ≠ .ready ∧ waiting.es ≠ .ready ∧ halted.es ≠ .ready ∧
    (fresh true true).es = .ready := by decide

theorem witness_BootFetchesFirstWord : (List.replicate 3582 (0 : Byte)).length ≤ 3582 :=
  Nat.le_of_eq List.length_replicate

theorem witness_PlacedWordIsExecuted : { bench with pc := 0xFFE }.pc.toNat ≤ 0xFFE := by decide

theorem witness_DecodeEncodeRoundTrip : (Instr.drw 15 15 15).wellFormed = true := rfl

theorem witness_EncodeDecodeKeepsExaminedBits :
    decodeWord 0x0FEE = .ok .ret ∧ decodeWord 0x9FFF = .ok (.sneVy 15 15) := ⟨rfl, rfl⟩

theorem witness_DecodeByFamilies : let w : Word := 0xD12F
    (1 : Reg).val = w.toNat / 256 % 16 ∧ (2 : Reg).val = w.toNat / 16 % 16 ∧ (0x2F : Byte).toNat = w.toNat % 256 ∧
    (0x12F : Addr).toNat = w.toNat % 4096 := by decide

theorem witness_OpcodeMapPartitionsWords : (⟨0x8004, 0xF00F⟩ : OpcodeRow) ∈ opcodeMap ∧
    (⟨0x8004, 0xF00F⟩ : OpcodeRow).hits 0x8124 = true ∧ decodeWord 0x8124 = .ok (.addVy 1 2) ∧
    decodeWord 0x8128 = .error (.badOpcode 0x8128) := ⟨by decide, by decide, rfl, rfl⟩

theorem witness_StepRunsDecodedInstruction :
    (at200 0x8124).executes (.addVy 1 2) ∧ { bench.storeBytes 0xFFE [0x00, 0xE0] with pc := 0xFFE, progEnd := 0xFFF }.executes .cls :=
  ⟨⟨⟨.inr rfl, by decide, by decide⟩, rfl⟩, ⟨⟨.inr rfl, by decide, by decide⟩, rfl⟩⟩

theorem witness_StepWhileHalted : halted.es = .halted := rfl

theorem witness_CleanHaltAtProgramEnd : State.reset.es = .ready ∧ State.reset.progEnd.toNat ≤ State.reset.pc.toNat ∧
    { bench with pc := 0x202 }.es = .running ∧ { bench with pc := 0x202 }.progEnd.toNat ≤ { bench with pc := 0x202 }.pc.toNat := by
  decide

theorem witness_WaitingStepPollsKeys : waiting.es = .waitingForKey ∧ (∀ k, waiting.key k = false) ∧
    (waiting.setKey 15 true).key 15 = true ∧ (∀ j, j < 15 → (waiting.setKey 15 true).key j = false) ∧
    (waiting.setKey 0 true).key 0 = true := by decide

theorem witness_BadOpcodeIsSkipped :
    (at200 0x8128).fetches ∧ decodeWord (at200 0x8128).wordAtPc = .error (.badOpcode (at200 0x8128).wordAtPc) :=
  ⟨⟨.inr rfl, by decide, by decide⟩, rfl⟩

theorem witness_FatalFaultChangesRecordOnly : ∃ t, step (at200 0x00EE) = .next t ∧ (at200 0x00EE).fault = .none ∧
    t.fault ≠ .none := ⟨_, rfl, rfl, by decide⟩

theorem witness_FaultCausesByInstruction : bench.fault = .none ∧ bench.sp.val = 0 ∧ { bench with sp := 16 }.sp.val = 16 ∧
    0xFFF < { bench with i := 0xFFF }.i.toNat + 2 - 1 ∧ 0xFFF < { bench with i := 0xFFE }.i.toNat + 2 ∧
    0xFFF < { bench with i := 0x1000 }.i.toNat + (0 : Reg).val ∧ { bench with i := 0x1FF }.i.toNat < 0x200 ∧
    { bench with pc := 0xFFF, progEnd := 0x1000 }.pc.toNat < { bench with pc := 0xFFF, progEnd := 0x1000 }.progEnd.toNat ∧
    0xFFF < { bench with pc := 0xFFF, progEnd := 0x1000 }.pc.toNat + 1 := by decide

theorem witness_EngineTransitions : (∃ t, step halted = .next t ∧ halted.es = .halted) ∧
    (∃ t, step waiting = .next t ∧ waiting.es = .waitingForKey) ∧
    (∃ t, step (at200 0xF30A) = .next t ∧ (at200 0xF30A).es = .running ∧ (at200 0xF30A).fault = .none) ∧
    (∃ t, step State.reset = .next t ∧ State.reset.es = .ready ∧ State.reset.fault = .none ∧
      State.reset.progEnd.toNat ≤ State.reset.pc.toNat) ∧
    ∃ t, (fresh true true).loadProgram [] = .next (t, .success) :=
  ⟨⟨_, rfl, rfl⟩, ⟨_, rfl, rfl⟩, ⟨_, rfl, rfl, rfl⟩, ⟨_, rfl, rfl, rfl, by decide⟩, _, rfl⟩

theorem witness_TimersTickOncePerStep : (∃ t, step halted = .next t ∧ t.es = .halted) ∧
    (∃ t, step (at200 0xF015) = .next t ∧ t.es ≠ .halted) ∧ (at200 0xF015).executes (.ldDtVx 0) ∧
    (∃ t, step (at200 0xF218) = .next t ∧ t.es ≠ .halted) ∧ (at200 0xF218).executes (.ldStVx 2) ∧
    (∃ t, step waiting = .next t ∧ t.es ≠ .halted) ∧ ∀ x, ¬ waiting.executes (.ldDtVx x) ∧ ¬ waiting.executes (.ldStVx x) :=
  ⟨⟨_, rfl, rfl⟩, ⟨_, rfl, by decide⟩, ⟨⟨.inr rfl, by decide, by decide⟩, rfl⟩, ⟨_, rfl, by decide⟩,
   ⟨⟨.inr rfl, by decide, by decide⟩, rfl⟩, ⟨_, rfl, by decide⟩, fun _ =>
    ⟨fun h => absurd h.1.1 (by decide), fun h => absurd h.1.1 (by decide)⟩⟩

theorem witness_LongWaitOnlyCountsDown : waiting.es = .waitingForKey ∧ ∀ k, waiting.key k = false := by decide

theorem witness_HaltedRunIsConstant : halted.es = .halted ∧ halted.event = none := ⟨rfl, rfl⟩

theorem witness_StepKeepsSound : Sound waiting ∧ ∃ t, step waiting = .next t := ⟨waiting_sound, _, rfl⟩

theorem witness_MemoryWritersAndReservedRegion : (∃ t, exec .cls bench = .next t) ∧ (∀ x, Instr.cls ≠ .ldB x ∧ Instr.cls ≠ .ldMemVx x) ∧
    ∃ t, step (at200 0xF333) = .next t := ⟨⟨_, rfl⟩, fun _ => ⟨nofun, nofun⟩, _, rfl⟩

theorem witness_HostOwnedStateIsKept : ∃ t, step (at200 0xF333) = .next t := ⟨_, rfl⟩

theorem witness_ScreenChangesMarkDirty :
    (∃ t, step { at200 0x6A05 with dirty := true } = .next t) ∧ { at200 0x6A05 with dirty := true }.dirty = true ∧
    (¬ (at200 0x6A05).executes .cls ∧ ∀ x y n, ¬ (at200 0x6A05).executes (.drw x y n)) ∧
    ∃ t, step (at200 0x6A05) = .next t ∧ t.dirty = false := by
  have hd : decodeWord (at200 0x6A05).wordAtPc = .ok (.ldKk 10 5) := rfl
  refine ⟨⟨_, rfl⟩, rfl, ⟨fun h => ?_, fun x y n h => ?_⟩, _, rfl, rfl⟩ <;>
  · have := hd.symm.trans h.2
    cases this

theorem witness_StackWritersOnly : (∃ t, exec .ret { bench with sp := 1 } = .next t) ∧ (∃ t, exec (.call 0xFFF) bench = .next t) ∧
    (∃ t, exec .cls bench = .next t) ∧ (∀ nnn, Instr.cls ≠ .call nnn) ∧ Instr.cls ≠ .ret := ⟨⟨_, rfl⟩, ⟨_, rfl⟩, ⟨_, rfl⟩, nofun, nofun⟩

theorem witness_IndexPassesTopByAddOnly : let s := withRegs { bench with i := 0xFFF } [(0, 1)]
    ∃ t, exec (.addI 0) s = .next t ∧ s.i.toNat ≤ 0xFFF ∧ 0xFFF < t.i.toNat := ⟨_, rfl, by decide, by decide⟩

theorem witness_FlagWritersOnly : (∃ t, exec (.addVy VF 1) bench = .next t ∧ t.es ≠ .halted) ∧ writesFlag (.addVy VF 1) = true ∧
    bench.es ≠ .halted ∧ writesFlag (.ldVxMem 14) = false ∧ destination (.ldVxMem 14) ≠ some VF :=
  ⟨⟨_, rfl, by decide⟩, rfl, by decide, rfl, by decide⟩

theorem witness_HiddenStateStaysHidden : Agree programVisible bench { bench with st := 9, dirty := true, waitX := 4, progEnd := 0x1000 } ∧
    ∃ t, exec (.ldVxDt 3) bench = .next t := by
  refine ⟨fun p hp => ?_, _, rfl⟩
  cases p <;> first
    | exact rfl
    | exact fun _ => rfl
    | exact fun _ _ => rfl
    | exact absurd hp (by decide)

theorem witness_OnlyRndUsesTheDraw : (∀ x kk, Instr.addVy 1 2 ≠ .rnd x kk) ∧ ∃ t, exec (.addVy 1 2) bench = .next t := ⟨nofun, _, rfl⟩

theorem witness_StoredCodeIsFetched : let s := { bench with i := 0xFF0 }
    (14 : Fin 15).val < (15 : Reg).val ∧ 0x200 ≤ s.i.toNat ∧ s.i.toNat + (15 : Reg).val ≤ 0xFFF := by decide

theorem witness_CallPushesReturnAddress : { bench with sp := 15 }.sp.val < 16 ∧ { bench with sp := 16 }.sp.val = 16 := by decide

theorem witness_ReturnPopsIntoPc : { bench with sp := 16 }.sp.val = (15 : Fin 16).val + 1 ∧ bench.sp.val = 0 := by decide

theorem witness_ReturnUndoesCall : ∃ t, exec (.call 0x300) { bench with sp := 15 } = .next t ∧ { bench with sp := 15 }.sp.val < 16 ∧
    t.same { t with pc := 0x400 } .stack ∧ { t with pc := 0x400 }.sp = t.sp := ⟨_, rfl, by decide, fun _ => rfl, rfl⟩

theorem witness_RegisterSkips : let s := withRegs bench [(1, 7), (2, 8), (3, 7)]
    s.reg 1 = 7 ∧ s.reg 2 ≠ 7 ∧ s.reg 1 = s.reg 3 ∧ s.reg 1 ≠ s.reg 2 := by decide

theorem witness_AddSetsCarry : let s := withRegs bench [(1, 0xFF), (2, 1), (3, 0)]
    (1 : Reg) ≠ VF ∧ 255 < (s.reg 1).toNat + (s.reg 2).toNat ∧ (s.reg 1).toNat + (s.reg 3).toNat ≤ 255 := by decide

theorem witness_SubtractionsSetNoBorrow : let s := withRegs bench [(1, 7), (2, 7), (3, 8)]
    (1 : Reg) ≠ VF ∧ (s.reg 2).toNat ≤ (s.reg 1).toNat ∧ (s.reg 1).toNat < (s.reg 3).toNat := by decide

theorem witness_ShiftsByOne : (14 : Reg) ≠ VF := by decide

theorem witness_ArithmeticIdentities : (14 : Reg) ≠ VF ∧ (∃ t, exec (.addVy 14 1) bench = .next t) ∧ (∃ t, exec (.sub 14 1) bench = .next t) ∧
    (∃ t, exec (.subn 14 1) bench = .next t) ∧ (∃ t, exec (.shr 14 1) bench = .next t) ∧ ∃ t, exec (.shl 14 1) bench = .next t :=
  ⟨by decide, ⟨_, rfl⟩, ⟨_, rfl⟩, ⟨_, rfl⟩, ⟨_, rfl⟩, _, rfl⟩

theorem witness_RandomByteIsMasked : (0x0F : Byte).getLsbD 4 = false := by decide

theorem witness_StoreDecimalDigits : 0x200 ≤ { bench with i := 0x200 }.base ∧ { bench with i := 0x200 }.base + 2 ≤ 0xFFF ∧
    0x200 ≤ { bench with i := 0xFFD }.base ∧ { bench with i := 0xFFD }.base + 2 ≤ 0xFFF ∧ 0xFFF < { bench with i := 0xFFE }.base + 2 ∧
    { bench with i := 0x1FF }.base < 0x200 := by decide

theorem witness_StoreRegisters : 0x200 ≤ { bench with i := 0xFF0 }.base ∧ { bench with i := 0xFF0 }.base + (15 : Reg).val ≤ 0xFFF ∧
    0xFFF < { bench with i := 0xFF1 }.base + (15 : Reg).val ∧ { bench with i := 0x1FF }.base < 0x200 := by decide

theorem witness_LoadRegisters : { bench with i := 0xFFF }.base + (0 : Reg).val ≤ 0xFFF ∧ 0xFFF < { bench with i := 0xFFF }.base + (1 : Reg).val ∧
    (0 : Reg) ≤ 0 ∧ (0 : Reg) < 15 := by decide

theorem witness_StoreThenLoadRestores : let s := { bench with i := 0x200 }
    ∃ t, exec (.ldMemVx 2) s = .next t ∧ 0x200 ≤ s.base ∧ s.base + (2 : Reg).val ≤ 0xFFF ∧
      t.same (t.setReg 1 7) .mem ∧ (t.setReg 1 7).i = s.i := ⟨_, rfl, by decide, by decide, fun _ => rfl, rfl⟩

theorem witness_DrawSprite : ({ bench with i := 0xFF1 }.base + 15 - 1 ≤ 0xFFF) ∧ (0 < 1 ∧ 0xFFF < { bench with i := 0x1000 }.base + 1 - 1) ∧
    (let s := { bench with i := 0x300 }.storeBytes 0x300 [0x80]
     SpriteCovers s 0 1 1 0 0 ∧ s.pixel 0 0 = false) ∧
    (let s := withCells ({ bench with i := 0x300 }.storeBytes 0x300 [0x80]) [(0, 0)]
     SpriteCovers s 0 1 1 0 0 ∧ s.pixel 0 0 = true) ∧
    ∀ r c, ¬ SpriteCovers bench 0 1 0 r c :=
  ⟨by decide, by decide, ⟨⟨0, 0, by decide, by decide, by decide, rfl, rfl⟩, by decide⟩,
   ⟨⟨0, 0, by decide, by decide, by decide, rfl, rfl⟩, by decide⟩, fun _ _ ⟨_, _, h, _⟩ => absurd h (Nat.not_lt_zero _)⟩

theorem witness_DrawTwiceRestores : let s := { bench with i := 0x300 }.storeBytes 0x300 [0x80]
    ∃ t, exec (.drw 0 1 1) s = .next t ∧ s.base + 1 - 1 ≤ 0xFFF ∧ t.same t .fb ∧ t.i = s.i ∧ t.straps = s.straps ∧ t.reg 0 = s.reg 0 ∧
      t.reg 1 = s.reg 1 ∧ (∀ k, k < 1 → t.readByte (s.base + k) = s.readByte (s.base + k)) ∧
      (∀ r c, s.pixel r c = false) ∧ SpriteCovers s 0 1 1 0 0 :=
  ⟨_, rfl, by decide, fun _ _ => rfl, rfl, rfl, rfl, rfl, fun _ _ => rfl, by intro r c; simp [State.pixel, bench, fresh, State.resetWith, blankScreen],
   ⟨0, 0, by decide, by decide, by decide, rfl, rfl⟩⟩

theorem witness_KeySkips : let s := withRegs (bench.setKey 7 true) [(0, 0x17), (1, 0xFF)]
    (7 : Fin 16).val = (s.reg 0).toNat % 16 ∧ s.key 7 = true ∧ (15 : Fin 16).val = (s.reg 1).toNat % 16 ∧ s.key 15 = false := by decide

theorem witness_WaitForKey : (bench.setKey 15 true).key 15 = true ∧ (∀ j, j < 15 → (bench.setKey 15 true).key j = false) ∧
    (bench.setKey 0 true).key 0 = true ∧ ∀ k, bench.key k = false := by decide

theorem witness_TimerRegisters : (at200 0xF107).executes (.ldVxDt 1) ∧ (at200 0xF015).executes (.ldDtVx 0) ∧ (at200 0xF218).executes (.ldStVx 2) :=
  ⟨⟨⟨.inr rfl, by decide, by decide⟩, rfl⟩, ⟨⟨.inr rfl, by decide, by decide⟩, rfl⟩, ⟨⟨.inr rfl, by decide, by decide⟩, rfl⟩⟩

end Sys2Proof.Tests
end

namespace Sys2Proof.Machine

/-! ### Frames compose -/

theorem State.same_trans {s t u : State} {p : Part} (hst : s.same t p) (htu : t.same u p) : s.same u p := by
  cases p with
  | mem | v | stack | keys => exact fun a => (htu a).trans (hst a)
  | fb => exact fun r c => (htu r c).trans (hst r c)
  | _ => exact Eq.trans htu hst

/-- Two updates in a row change at most what either of them changes. -/
theorem OnlyChanges.trans {ps qs : List Part} {s t u : State} (hst : OnlyChanges ps s t) (htu : OnlyChanges qs t u) :
    OnlyChanges (ps ++ qs) s u := by
  intro p hp
  obtain ⟨hps, hqs⟩ := not_or.mp (mt List.mem_append.mpr hp)
  exact State.same_trans (hst p hps) (htu p hqs)

section PutResult

variable (s : State) (x : Reg) (b : Byte)

theorem State.onlyChanges_putResult : OnlyChanges [.v, .pc] s (s.putResult x b) := by
  intro p hp
  cases p <;> simp_all [State.same]

theorem State.regsExcept_putResult : RegsExcept [x] s (s.putResult x b) := by
  intro r hr
  rw [State.reg_putResult, if_neg (List.ne_of_not_mem_cons hr)]

end PutResult

theorem State.onlyChanges_nextDraw (s : State) : OnlyChanges [.draws] s s.nextDraw := by
  intro p hp
  cases p <;> simp_all [State.same]

/-! ### A state with another counter of draws (log entry 2) -/

/-- The same machine, about to consume the `k`-th draw of the random source next (R8). -/
def State.withDraws (s : State) (k : Nat) : State := { s with draws := k }

theorem State.withDraws_skipIf (s : State) (c : Bool) (k : Nat) :
    (s.skipIf c).withDraws k = (s.withDraws k).skipIf c := by
  cases c <;> rfl

/-- The effect of an instruction other than Cxkk is the same under every counter of draws: no condition of an effect
reads the counter, and every update but `nextDraw` commutes with setting it. -/
theorem Effect.withDraws {s t : State} {i : Instr} (h : Effect s i t) (hi : ∀ x kk, i ≠ .rnd x kk) (k : Nat) :
    Effect (s.withDraws k) i (t.withDraws k) := by
  cases h
  case rnd x kk => exact absurd rfl (hi x kk)
  case seKk | sneKk | seVy | sneVy | skp | sknp => rw [State.withDraws_skipIf]; constructor
  case ret h => exact .ret (s := s.withDraws k) h
  case retEmpty h => exact .retEmpty h
  case call nnn h => exact .call (s := s.withDraws k) nnn h
  case callFull nnn h => exact .callFull nnn h
  case drw x y n h => exact .drw x y n h
  case drwBounds x y n h0 h => exact .drwBounds x y n h0 h
  case ldVxK x key h => exact .ldVxK x key h
  case ldVxKWait x h => exact .ldVxKWait x h
  case ldB x h ha => exact .ldB x h ha
  case ldBBounds x h => exact .ldBBounds x h
  case ldBProtect x h => exact .ldBProtect x h
  case ldMemVx x h ha => exact .ldMemVx x h ha
  case ldMemVxBounds x h => exact .ldMemVxBounds x h
  case ldMemVxProtect x h => exact .ldMemVxProtect x h
  case ldVxMem x h => exact .ldVxMem x h
  case ldVxMemBounds x h => exact .ldVxMemBounds x h
  all_goals constructor

/-- An instruction other than Cxkk answers the same under every counter of draws. -/
theorem exec_withDraws {s t : State} {i : Instr} (hi : ∀ x kk, i ≠ .rnd x kk) (h : exec i s = .next t) (k : Nat) :
    exec i (s.withDraws k) = .next (t.withDraws k) :=
  ((exec_effect h).withDraws hi k).exec_eq

/-- An instruction other than Cxkk consumes no draw: `exec_withDraws` at the counter the state has already. -/
theorem exec_keeps_draws {s t : State} {i : Instr} (hi : ∀ x kk, i ≠ .rnd x kk) (h : exec i s = .next t) :
    t.draws = s.draws := by
  have hown : exec i s = .next (t.withDraws s.draws) := exec_withDraws hi h s.draws
  have ht : t = t.withDraws s.draws := Host.Outcome.next.inj (h.symm.trans hown)
  exact (congrArg State.draws ht :)

/-! ### The statements -/

/-- Settles O33: no effect but that of Cxkk reads or writes the counter of draws. -/
theorem onlyRndUsesTheDraw : Obligations.OnlyRndUsesTheDraw := by
  intro i s t k hi h
  exact ⟨exec_keeps_draws hi h, exec_withDraws hi h k⟩

/-- Settles O46: Cxkk is `putResult` of the masked draw, then `nextDraw`; its frame is the two frames composed. -/
theorem randomByteIsMasked : Obligations.RandomByteIsMasked := by
  intro x kk s
  have hreg : (s.putResult x (Config.draw s.draws &&& kk)).nextDraw.reg x = Config.draw s.draws &&& kk := by
    rw [State.reg_nextDraw, State.reg_putResult, if_pos rfl]
  refine ⟨Laws.EncodesRow.encodedAs (.rnd x kk), _, (Effect.rnd x kk).exec_eq, hreg, ?masked, rfl, ?regs, rfl, ?frame⟩
  case masked =>
    intro b hb
    rw [hreg, BitVec.getLsbD_and, hb, Bool.and_false]
  case regs => exact s.regsExcept_putResult x _
  case frame => exact (s.onlyChanges_putResult x _).trans (State.onlyChanges_nextDraw _)

end Sys2Proof.Machine

namespace Sys2Proof.Machine

/-! ### What an instruction can do to one piece of state -/

section Effects

variable {s t : State} {i : Instr}

/-- The engine, the fault record and what the host owns are as before: what an instruction that completes leaves
alone (R32, R36 to R39, R52). -/
structure EngineKept (s t : State) : Prop where
  keys    : t.keys = s.keys
  es      : t.es = s.es
  fault   : t.fault = s.fault
  faultPc : t.faultPc = s.faultPc
  progEnd : t.progEnd = s.progEnd
  waitX   : t.waitX = s.waitX
  straps  : t.straps = s.straps
  event   : t.event = s.event

/-- The three ways an instruction ends: by a fatal fault, by beginning to wait, or by completing. -/
theorem Effect.ends (h : Effect s i t) :
    (∃ c, t = s.raise c ∧ c ≠ .none) ∨ (∃ x, i = .ldVxK x ∧ t = s.beginWait x) ∨ EngineKept s t := by
  cases h
  case retEmpty | callFull | drwBounds | ldBBounds | ldBProtect | ldMemVxBounds | ldMemVxProtect | ldVxMemBounds =>
    exact .inl ⟨_, rfl, nofun⟩
  case ldVxKWait x _ => exact .inr (.inl ⟨x, rfl, rfl⟩)
  all_goals exact .inr (.inr (by constructor <;> simp))

/-- No instruction writes what the host owns (R32, R38, R52). -/
theorem Effect.keeps_hostOwned (h : Effect s i t) :
    t.keys = s.keys ∧ t.progEnd = s.progEnd ∧ t.straps = s.straps := by
  obtain ⟨c, rfl, -⟩ | ⟨x, -, rfl⟩ | hk := h.ends
  · exact ⟨rfl, rfl, rfl⟩
  · exact ⟨rfl, rfl, rfl⟩
  · exact ⟨hk.keys, hk.progEnd, hk.straps⟩

/-- Memory stays, or checked bytes are stored above the reserved region (R65, R66). -/
theorem Effect.mem_cases (h : Effect s i t) :
    t.mem = s.mem ∨ ∃ a bs, 0x200 ≤ a ∧ a + bs.length ≤ 0x1000 ∧ t.mem = s.mem.writeBytes s.straps.font a bs := by
  cases h
  case ldB x h ha => exact .inr ⟨_, _, ha, by rw [length_bcdDigits]; omega, rfl⟩
  case ldMemVx x h ha => exact .inr ⟨_, _, ha, by rw [State.length_regsUpTo]; omega, rfl⟩
  all_goals exact .inl (by simp)

/-- `PC` stays, passes one instruction or two, takes a return address, or takes a jump's target (R127, R141 to R150). -/
theorem Effect.pc_cases (h : Effect s i t) :
    t.pc = s.pc ∨ t.pc = s.pc + 2 ∨ t.pc = s.pc + 4 ∨ (∃ j : Fin 16, t.pc = s.stack[j]) ∨ t.pc.toNat ≤ 0x10FE := by
  cases h
  case ret h => exact .inr (.inr (.inr (.inl ⟨⟨s.sp.val - 1, by omega⟩, rfl⟩)))
  case jp nnn | call nnn _ =>
    have hle : (zextAddr nnn).toNat ≤ 0x10FE := by rw [zextAddr_toNat]; omega
    exact .inr (.inr (.inr (.inr hle)))
  case jpV0 nnn =>
    have hle : (zextAddr nnn + zextByte (s.reg 0)).toNat ≤ 0x10FE := by
      rw [BitVec.toNat_add, zextAddr_toNat, zextByte_toNat]; omega
    exact .inr (.inr (.inr (.inr hle)))
  case seKk | sneKk | seVy | sneVy | skp | sknp =>
    rw [State.skipIf_pc]
    split
    · exact .inr (.inr (.inl rfl))
    · exact .inr (.inl rfl)
  case retEmpty | callFull | drwBounds | ldVxKWait | ldBBounds | ldBProtect | ldMemVxBounds | ldMemVxProtect |
      ldVxMemBounds => exact .inl rfl
  all_goals exact .inr (.inl rfl)

/-- The stack and `SP` stay, or the instruction is a return that pops or a call that pushes (R27, R28). -/
theorem Effect.stack_cases (h : Effect s i t) :
    (t.stack = s.stack ∧ t.sp = s.sp) ∨
    (i = .ret ∧ t.stack = s.stack ∧ t.sp.val + 1 = s.sp.val) ∨
    (∃ nnn, ∃ _ : s.sp.val < 16, i = .call nnn ∧ t.stack = s.stack.set s.sp.val (s.pc + 2) ∧
      t.sp.val = s.sp.val + 1) := by
  cases h
  case ret h =>
    have hsp : s.sp.val - 1 + 1 = s.sp.val := by omega
    exact .inr (.inl ⟨rfl, rfl, hsp⟩)
  case call nnn h => exact .inr (.inr ⟨nnn, h, rfl, rfl, rfl⟩)
  all_goals exact .inl (by simp)

/-- The screen and `DIRTY` stay, or the instruction is a 00E0 or a Dxyn and leaves `DIRTY` set (R33, R34). -/
theorem Effect.screen_cases (h : Effect s i t) :
    (t.fb = s.fb ∧ t.dirty = s.dirty) ∨ (t.dirty = true ∧ (i = .cls ∨ ∃ x y n, i = .drw x y n)) := by
  cases h
  case cls => exact .inr ⟨rfl, .inl rfl⟩
  case drw x y n _ => exact .inr ⟨rfl, .inr ⟨x, y, n, rfl⟩⟩
  all_goals exact .inl (by simp)

end Effects

/-! ### Steps that execute an instruction, and steps that do not -/

/-- What a step that executes no instruction may change: the register a key's number goes to, `PC`, the timers, the
engine and the fault record, the diagnostic output. -/
def idleParts : List Part := [.v, .pc, .dt, .st, .es, .fault, .faultPc, .event]

theorem State.onlyChanges_pollKeys_tick (s : State) : OnlyChanges idleParts s (s.emit none).pollKeys.tick := by
  intro p hp
  obtain ⟨k, -, hpoll⟩ | ⟨-, hpoll⟩ := (s.emit none).pollKeys_cases
  all_goals
    rw [hpoll]
    cases p <;> simp_all [idleParts, State.same]

/-- A step executes an instruction, or it leaves all but `idleParts` alone. -/
theorem step_executes_or_idle {s t : State} (h : step s = .next t) :
    OnlyChanges idleParts s t ∨
    ∃ i u, s.executes i ∧ Effect ((s.emit none).setEs .running) i u ∧ t = u.finish := by
  obtain ⟨-, rfl⟩ | ⟨-, rfl⟩ | ⟨-, ⟨-, rfl⟩ | ⟨-, -, rfl⟩ | ⟨hf, ⟨e, -, rfl⟩ | ⟨i, u, hd, hu, rfl⟩⟩⟩ := step_cases h
  case inr.inl => exact .inl s.onlyChanges_pollKeys_tick
  case inr.inr.inr.inr.inr => exact .inr ⟨i, u, ⟨hf, hd⟩, exec_effect hu, rfl⟩
  all_goals
    refine .inl fun p hp => ?_
    cases p <;> simp_all [idleParts, State.same]

section Finish

variable (s : State)

@[simp] theorem State.finish_keys : s.finish.keys = s.keys := by unfold State.finish; split <;> rfl
@[simp] theorem State.finish_progEnd : s.finish.progEnd = s.progEnd := by unfold State.finish; split <;> rfl
@[simp] theorem State.finish_straps : s.finish.straps = s.straps := by unfold State.finish; split <;> rfl
@[simp] theorem State.finish_fb : s.finish.fb = s.fb := by unfold State.finish; split <;> rfl
@[simp] theorem State.finish_dirty : s.finish.dirty = s.dirty := by unfold State.finish; split <;> rfl

end Finish

/-- A step leaves screen and `DIRTY`, or it executes a 00E0 or a Dxyn and leaves `DIRTY` set (R33, R34). -/
theorem step_screen_cases {s t : State} (h : step s = .next t) :
    (s.same t .fb ∧ t.dirty = s.dirty) ∨
    (t.dirty = true ∧ (s.executes .cls ∨ ∃ x y n, s.executes (.drw x y n))) := by
  obtain hidle | ⟨i, u, hi, hu, rfl⟩ := step_executes_or_idle h
  · exact .inl ⟨hidle .fb (by decide), hidle .dirty (by decide)⟩
  rw [State.finish_dirty]
  obtain ⟨hfb, hdirty⟩ | ⟨hdirty, rfl | ⟨x, y, n, rfl⟩⟩ := hu.screen_cases
  · exact .inl ⟨State.pixel_congr (u.finish_fb.trans hfb), hdirty⟩
  · exact .inr ⟨hdirty, .inl hi⟩
  · exact .inr ⟨hdirty, .inr ⟨x, y, n, hi⟩⟩

/-! ### The invariant -/

/-- Memory as the invariant wants it: canonical, and nothing below 0x200 listed (R66). -/
theorem Effect.mem_sound {s t : State} {i : Instr} (h : Effect s i t) (hs : Sound s) :
    t.mem.wf t.straps.font ∧ ∀ c ∈ t.mem, 0x200 ≤ c.1 := by
  obtain ⟨-, -, hstraps⟩ := h.keeps_hostOwned
  rw [hstraps]
  obtain hmem | ⟨a, bs, ha, hfit, hmem⟩ := h.mem_cases
  · rw [hmem]
    exact ⟨hs.memCanonical, hs.reservedKept⟩
  · rw [hmem]
    refine ⟨Memory.wf_writeBytes hs.memCanonical hfit, fun c hc => ?_⟩
    obtain hac | hc := Memory.mem_writeBytes hc
    · exact Nat.le_trans ha hac
    · exact hs.reservedKept c hc

namespace Sound

variable {s t : State} {i : Instr}

/-- An engine that has not halted has no fault on record (R36, R37). -/
theorem no_fault (hs : Sound s) (hes : s.es ≠ .halted) : s.fault = .none ∧ s.faultPc = 0 := by
  have hf : s.fault = .none := by
    by_contra hf
    exact hes (hs.faultRecord.2 hf).1
  exact ⟨hf, hs.faultRecord.1 hf⟩

theorem faultRecord_of_no_fault (h : s.fault = .none ∧ s.faultPc = 0) :
    (s.fault = .none → s.faultPc = 0) ∧ (s.fault ≠ .none → s.es = .halted ∧ s.faultPc = s.pc) :=
  ⟨fun _ => h.2, fun hf => absurd h.1 hf⟩

/-- The invariant does not speak of the timers (R130). -/
theorem tick (hs : Sound s) : Sound s.tick := { hs with }

theorem finish (hs : Sound s) : Sound s.finish := by
  unfold State.finish
  split
  · exact hs
  · exact hs.tick

theorem emit_none (hs : Sound s) : Sound (s.emit none) := { hs with eventRunning := fun h => absurd rfl h }

/-- The engine begins to execute, or goes on after a wait (R122, R123). -/
theorem setEs_running (hs : Sound s) (hes : s.es ≠ .halted) : Sound (s.setEs .running) :=
  { hs with
    faultRecord := faultRecord_of_no_fault (hs.no_fault hes)
    waiting := nofun
    ready := nofun
    eventRunning := fun _ => rfl }

/-- The clean halt at the end of the program (R124). -/
theorem setEs_halted (hs : Sound s) (hes : s.es ≠ .halted) (hev : s.event = none) : Sound (s.setEs .halted) :=
  { hs with
    faultRecord := faultRecord_of_no_fault (hs.no_fault hes)
    waiting := nofun
    ready := nofun
    eventRunning := fun h => absurd hev h }

/-- The fault entry records its cause and `PC` together (R256). -/
theorem raise (hs : Sound s) (hev : s.event = none) {c : Cause} (hc : c ≠ .none) : Sound (s.raise c) :=
  { hs with
    faultRecord := ⟨fun h => absurd h hc, fun _ => ⟨rfl, rfl⟩⟩
    waiting := nofun
    ready := nofun
    eventRunning := fun h => absurd hev h }

/-- Running on is sound: the engine kept in `Running`, memory, `PC` and the return addresses in order. -/
theorem of_engineKept (hs : Sound s) (hrun : s.es = .running) (hk : EngineKept s t)
    (hmem : t.mem.wf t.straps.font ∧ ∀ c ∈ t.mem, 0x200 ≤ c.1) (hpc : t.pc.toNat ≤ 0x10FE)
    (hstack : ∀ j : Fin 16, t.stack[j].toNat ≤ 0x1000) : Sound t := by
  have hes : t.es = .running := hk.es.trans hrun
  obtain ⟨hf, hfpc⟩ := hs.no_fault (by rw [hrun]; nofun)
  exact {
    memCanonical := hmem.1
    reservedKept := hmem.2
    progEndRange := hk.progEnd.symm ▸ hs.progEndRange
    pcRange := hpc
    stackRange := hstack
    faultRecord := faultRecord_of_no_fault ⟨hk.fault.trans hf, hk.faultPc.trans hfpc⟩
    waiting := fun h => nomatch hes.symm.trans h
    ready := fun h => nomatch hes.symm.trans h
    eventRunning := fun _ => hes }

theorem advance (hs : Sound s) (hrun : s.es = .running) (hfit : s.pc.toNat + 1 ≤ 0xFFF) : Sound s.advance := by
  have hpc : (s.pc + 2).toNat ≤ 0x10FE := by bv_omega
  have hk : EngineKept s s.advance := by constructor <;> rfl
  exact hs.of_engineKept hrun hk ⟨hs.memCanonical, hs.reservedKept⟩ hpc hs.stackRange

theorem badOpcode (hs : Sound s) (hrun : s.es = .running) (hfit : s.pc.toNat + 1 ≤ 0xFFF) (w : Word) :
    Sound (s.badOpcode w) :=
  { hs.advance hrun hfit with eventRunning := fun _ => hrun }

/-- An Fx0A that begins to wait stands at `PC`, with its `x` in `WAIT_X` (R39, R236). -/
theorem beginWait (hs : Sound s) (hrun : s.es = .running) (hev : s.event = none) (hfit : s.pc.toNat + 1 ≤ 0xFFF)
    {x : Reg} (hd : decodeWord s.wordAtPc = .ok (.ldVxK x)) : Sound (s.beginWait x) :=
  { hs with
    faultRecord := faultRecord_of_no_fault (hs.no_fault (by rw [hrun]; nofun))
    waiting := fun _ => ⟨hfit, hd⟩
    ready := nofun
    eventRunning := fun h => absurd hev h }

/-- A waiting engine stands on an Fx0A, so `PC` has room to pass it when a key comes (R123). -/
theorem pollKeys (hs : Sound s) (hes : s.es = .waitingForKey) : Sound s.pollKeys := by
  obtain ⟨k, -, hpoll⟩ | ⟨-, hpoll⟩ := s.pollKeys_cases
  · rw [hpoll]
    have hrun : Sound (s.setEs .running) := hs.setEs_running (by rw [hes]; nofun)
    -- the invariant does not speak of `V`, so passing the Fx0A is all that counts
    exact { hrun.advance rfl (hs.waiting hes).1 with }
  · rw [hpoll]
    exact hs

end Sound

/-- After an instruction `PC` is in range (R26): return addresses are at most 0x1000, and a skip passes 4 bytes. -/
theorem Effect.pc_sound {s t : State} {i : Instr} (h : Effect s i t) (hs : Sound s) (hfit : s.pc.toNat + 1 ≤ 0xFFF) :
    t.pc.toNat ≤ 0x10FE := by
  obtain hpc | hpc | hpc | ⟨j, hpc⟩ | hpc := h.pc_cases
  · rw [hpc]; omega
  · rw [hpc]; bv_omega
  · rw [hpc]; bv_omega
  · rw [hpc]; exact Nat.le_trans (hs.stackRange j) (by decide)
  · exact hpc

/-- After an instruction the return addresses are at most 0x1000: a call pushes `PC + 2` (R141, R143). -/
theorem Effect.stack_sound {s t : State} {i : Instr} (h : Effect s i t) (hs : Sound s)
    (hfit : s.pc.toNat + 1 ≤ 0xFFF) (j : Fin 16) : t.stack[j].toNat ≤ 0x1000 := by
  obtain ⟨hst, -⟩ | ⟨-, hst, -⟩ | ⟨nnn, hsp, -, hst, -⟩ := h.stack_cases
  · rw [hst]; exact hs.stackRange j
  · rw [hst]; exact hs.stackRange j
  · have hpush : (s.pc + 2).toNat ≤ 0x1000 := by bv_omega
    rw [hst, Fin.getElem_fin, Vector.getElem_set]
    split
    · exact hpush
    · exact hs.stackRange j

/-- The execute phase keeps the invariant: at its start the engine runs, stands on the instruction and has no
diagnostic output (R126, R127). -/
theorem Effect.sound {s t : State} {i : Instr} (h : Effect s i t) (hs : Sound s) (hrun : s.es = .running)
    (hev : s.event = none) (hfit : s.pc.toNat + 1 ≤ 0xFFF) (hd : decodeWord s.wordAtPc = .ok i) : Sound t := by
  obtain ⟨c, rfl, hc⟩ | ⟨x, rfl, rfl⟩ | hk := h.ends
  · exact hs.raise hev hc
  · exact hs.beginWait hrun hev hfit hd
  · exact hs.of_engineKept hrun hk (h.mem_sound hs) (h.pc_sound hs hfit) (h.stack_sound hs hfit)

/-! ### What no instruction reads (R29, R34 to R40) -/

/-- The state with what a program sees taken from `s` and all else, memory too, from `u`. -/
def State.withHidden (s u : State) : State :=
  { u with v := s.v, i := s.i, pc := s.pc, stack := s.stack, sp := s.sp, dt := s.dt, keys := s.keys, fb := s.fb,
           straps := s.straps, draws := s.draws }

/-- Two states look the same to a program if and only if they differ in hidden parts and in how memory is written down. -/
theorem agree_programVisible_iff {s s' : State} :
    Agree programVisible s s' ↔ s' = s.withHidden s' ∧ ∀ a, s'.readByte a = s.readByte a := by
  constructor
  · intro h
    have hv : s'.v = s.v := Vector.ext fun r hr => h .v (by decide) ⟨r, hr⟩
    have hstack : s'.stack = s.stack := Vector.ext fun j hj => h .stack (by decide) ⟨j, hj⟩
    have hkeys : s'.keys = s.keys := Vector.ext fun k hk => h .keys (by decide) ⟨k, hk⟩
    have hfb : s'.fb = s.fb := Vector.ext fun r hr => Vector.ext fun c hc => h .fb (by decide) ⟨r, hr⟩ ⟨c, hc⟩
    refine ⟨?_, h .mem (by decide)⟩
    rw [State.withHidden, ← hv, ← hstack, ← hkeys, ← hfb, ← h .i (by decide), ← h .pc (by decide),
      ← h .sp (by decide), ← h .dt (by decide), ← h .straps (by decide), ← h .draws (by decide)]
  · rintro ⟨hs', hmem⟩ p hp
    rw [hs'] at hmem ⊢
    cases p
    case mem => exact hmem
    case st | dirty | es | fault | faultPc | progEnd | waitX | event => exact absurd hp (by decide)
    case v | stack | keys => exact fun _ => rfl
    case fb => exact fun _ _ => rfl
    all_goals rfl

theorem State.withHidden_skipIf (s u : State) (c : Bool) :
    (s.withHidden u).skipIf c = (s.skipIf c).withHidden ((s.withHidden u).skipIf c) := by
  cases c <;> rfl

/-- Bytes stored at the same place keep memories that read the same so. -/
theorem State.readByte_storeBytes_congr {s s' : State} (h : ∀ a, s'.readByte a = s.readByte a) (a : Nat)
    (bs : List Byte) (b : Nat) : (s'.storeBytes a bs).readByte b = (s.storeBytes a bs).readByte b := by
  by_cases hb : b < a ∨ a + bs.length ≤ b
  · rw [State.readByte_storeBytes_outside hb, State.readByte_storeBytes_outside hb, h]
  · obtain ⟨k, rfl⟩ : ∃ k, b = a + k := ⟨b - a, by omega⟩
    have hk : k < bs.length := by omega
    rw [State.readByte_storeBytes_inside hk, State.readByte_storeBytes_inside hk]

theorem State.readBytes_congr {s s' : State} (h : ∀ a, s'.readByte a = s.readByte a) (a cnt : Nat) :
    s'.readBytes a cnt = s.readBytes a cnt := by
  simp [State.readBytes, h]

/-- An effect is the same whatever the hidden parts and the form of memory: its conditions and the values it writes come
from what a program sees. Storing and reading memory are the cases that need the reads to agree. -/
theorem Effect.withHidden {s t u : State} {i : Instr} (h : Effect s i t)
    (hmem : ∀ a, (s.withHidden u).readByte a = s.readByte a) :
    ∃ t', Effect (s.withHidden u) i t' ∧ t' = t.withHidden t' ∧ ∀ a, t'.readByte a = t.readByte a := by
  cases h
  case seKk | sneKk | seVy | sneVy | skp | sknp =>
    apply Exists.intro
    apply And.intro
    · constructor
    · exact ⟨State.withHidden_skipIf s u _, by simpa using hmem⟩
  case drw x y n h =>
    have heff := Effect.drw (s := s.withHidden u) x y n h
    rw [State.readBytes_congr hmem] at heff
    exact ⟨_, heff, rfl, hmem⟩
  case ldVxMem x h =>
    have heff := Effect.ldVxMem (s := s.withHidden u) x h
    rw [State.readBytes_congr hmem] at heff
    exact ⟨_, heff, rfl, by simpa using hmem⟩
  case ldB x h ha =>
    exact ⟨_, .ldB x h ha, rfl, State.readByte_storeBytes_congr hmem s.base (bcdDigits (s.reg x))⟩
  case ldMemVx x h ha =>
    exact ⟨_, .ldMemVx x h ha, rfl, State.readByte_storeBytes_congr hmem s.base (s.regsUpTo x)⟩
  case ret h => exact ⟨_, .ret (s := s.withHidden u) h, rfl, hmem⟩
  case retEmpty h => exact ⟨_, .retEmpty h, rfl, hmem⟩
  case call nnn h => exact ⟨_, .call (s := s.withHidden u) nnn h, rfl, hmem⟩
  case callFull nnn h => exact ⟨_, .callFull nnn h, rfl, hmem⟩
  case drwBounds x y n h0 h => exact ⟨_, .drwBounds x y n h0 h, rfl, hmem⟩
  case ldVxK x k h => exact ⟨_, .ldVxK x k h, rfl, hmem⟩
  case ldVxKWait x h => exact ⟨_, .ldVxKWait x h, rfl, hmem⟩
  case ldBBounds x h => exact ⟨_, .ldBBounds x h, rfl, hmem⟩
  case ldBProtect x h => exact ⟨_, .ldBProtect x h, rfl, hmem⟩
  case ldMemVxBounds x h => exact ⟨_, .ldMemVxBounds x h, rfl, hmem⟩
  case ldMemVxProtect x h => exact ⟨_, .ldMemVxProtect x h, rfl, hmem⟩
  case ldVxMemBounds x h => exact ⟨_, .ldVxMemBounds x h, rfl, hmem⟩
  all_goals
    apply Exists.intro
    apply And.intro
    · constructor
    · exact ⟨rfl, hmem⟩

/-! ### The flag register (R22, R23) -/

theorem flagByte_eq_zero_or_one (f : Bool) : flagByte f = 0 ∨ flagByte f = 1 := by
  cases f
  · exact .inl rfl
  · exact .inr rfl

/-- A flag writer ends in the fault entry, or its last write to VF is a flag, also where VF is its destination (R161). -/
theorem Effect.writesFlag_cases {s t : State} {i : Instr} (h : Effect s i t) (hw : writesFlag i = true) :
    (∃ c, t = s.raise c) ∨ ∃ f, t.reg VF = flagByte f := by
  cases h
  case drwBounds => exact .inl ⟨_, rfl⟩
  case addVy | sub | shr | subn | shl => exact .inr ⟨_, by rw [State.reg_putFlagged, if_pos rfl]⟩
  case drw => exact .inr ⟨_, by rw [State.reg_showCanvas, if_pos rfl]⟩
  all_goals cases hw

theorem State.reg_VF_putResult {s : State} {x : Reg} (hx : some x ≠ some VF) (b : Byte) :
    (s.putResult x b).reg VF = s.reg VF := by
  rw [State.reg_putResult, if_neg fun h => hx (congrArg some h.symm)]

/-- An instruction that is no flag writer leaves VF, unless VF is its ordinary destination; Fx65 loads the registers up
to its `x` alone. -/
theorem Effect.keeps_VF {s t : State} {i : Instr} (h : Effect s i t) (hw : writesFlag i = false)
    (hx : destination i ≠ some VF) : t.reg VF = s.reg VF := by
  cases h
  case addVy | sub | shr | subn | shl | drw | drwBounds => cases hw
  case ldKk | addKk | ldVy | orVy | andVy | xorVy | rnd | ldVxDt | ldVxK => exact State.reg_VF_putResult hx _
  case ldVxMem x _ =>
    have hne : x.val ≠ 15 := fun h => hx (congrArg some (Fin.ext h))
    have hshort : (s.readBytes s.base (x.val + 1)).length ≤ VF.val := by
      rw [State.length_readBytes]
      exact Nat.lt_of_le_of_ne (Nat.le_of_lt_succ x.isLt) hne
    rw [State.reg_advance, State.reg_loadRegs, List.getD_eq_default _ _ hshort]
  case ret | call => rfl
  all_goals simp

/-! ### Reset (R55) -/

/-- The reset table holds for every straps, and at every counter of draws: that counter is the model's own. -/
theorem resetValues_resetWith (straps : Straps) (k : Nat) : ResetValues ((State.resetWith straps).withDraws k) where
  memZero a _ hfont := dif_neg (by omega)
  memFont j := by
    have hj : 0x050 ≤ 0x050 + j.val ∧ 0x050 + j.val < 0x0A0 := by omega
    have hread : unlistedByte straps.font (0x050 + j.val) = straps.font[0x050 + j.val - 0x050] := dif_pos hj
    simp only [Nat.add_sub_cancel_left] at hread
    exact hread
  v r := by simp [State.reg, State.withDraws, State.resetWith]
  i := rfl
  pc := rfl
  stack j := by simp [State.withDraws, State.resetWith]
  sp := rfl
  dt := rfl
  st := rfl
  keys k := by simp [State.key, State.withDraws, State.resetWith]
  fb r c := by simp [State.pixel, State.withDraws, State.resetWith, blankScreen]
  dirty := rfl
  es := rfl
  fault := rfl
  faultPc := rfl
  progEnd := rfl
  waitX := rfl

theorem sound_resetWith (straps : Straps) : Sound (State.resetWith straps) where
  memCanonical := Memory.wf_nil
  reservedKept := by simp [State.resetWith]
  progEndRange := by simp [State.resetWith]
  pcRange := by simp [State.resetWith]
  stackRange j := by simp [State.resetWith]
  faultRecord := Sound.faultRecord_of_no_fault ⟨rfl, rfl⟩
  waiting := nofun
  ready _ := rfl
  eventRunning h := absurd rfl h

/-! ### The statements -/

/-- Settles O25, by the ways a step can go: each operation of the cycle keeps the invariant, the execute phase by
`Effect.sound`. -/
theorem stepKeepsSound : Obligations.StepKeepsSound := by
  intro s t hs h
  have hs0 : Sound (s.emit none) := hs.emit_none
  obtain ⟨-, rfl⟩ | ⟨hes, rfl⟩ | ⟨hes, hactive⟩ := step_cases h
  · exact hs0
  · exact (hs0.pollKeys hes).tick
  have hne : s.es ≠ .halted := by obtain hes | hes := hes <;> rw [hes] <;> nofun
  have hrun : Sound ((s.emit none).setEs .running) := hs0.setEs_running hne
  obtain ⟨-, rfl⟩ | ⟨-, -, rfl⟩ | ⟨⟨-, -, hfit⟩, ⟨e, -, rfl⟩ | ⟨i, u, hd, hu, rfl⟩⟩ := hactive
  · exact hs0.setEs_halted hne rfl
  · exact hs0.raise rfl nofun
  · exact (hrun.badOpcode rfl hfit _).tick
  · exact ((exec_effect hu).sound hrun rfl rfl hfit hd).finish

/-- Settles O27: the keys, `PROG_END` and the straps are no part an idle step or an instruction writes. -/
theorem hostOwnedStateIsKept : Obligations.HostOwnedStateIsKept := by
  intro s t h
  obtain hidle | ⟨i, u, -, hu, rfl⟩ := step_executes_or_idle h
  · exact ⟨hidle .keys (by decide), hidle .progEnd (by decide), hidle .straps (by decide)⟩
  · obtain ⟨hkeys, hend, hstraps⟩ := hu.keeps_hostOwned
    exact ⟨State.key_congr (u.finish_keys.trans hkeys), u.finish_progEnd.trans hend, u.finish_straps.trans hstraps⟩

/-- Settles O28, by the two ways a step can treat the screen. -/
theorem screenChangesMarkDirty : Obligations.ScreenChangesMarkDirty := by
  intro s t h
  obtain ⟨hfb, hdirty⟩ | ⟨hdirty, hexec⟩ := step_screen_cases h
  · exact ⟨fun _ => ⟨hfb, hdirty⟩, fun hs => hdirty.trans hs, fun _ => hfb⟩
  · refine ⟨fun ⟨hcls, hdrw⟩ => ?_, fun _ => hdirty, fun ht => nomatch hdirty.symm.trans ht⟩
    obtain hi | ⟨x, y, n, hi⟩ := hexec
    · exact absurd hi hcls
    · exact absurd hi (hdrw x y n)

/-- Settles O29, by the three ways an instruction can treat the stack. -/
theorem stackWritersOnly : Obligations.StackWritersOnly := by
  intro i s t h
  obtain ⟨hst, hsp⟩ | ⟨rfl, hst, hsp⟩ | ⟨nnn, -, rfl, -, hsp⟩ := (exec_effect h).stack_cases
  · exact ⟨fun _ _ => by rw [hst], fun _ _ => hsp, fun _ => .inr hsp, fun _ => .inr hsp⟩
  · exact ⟨fun _ _ => by rw [hst], fun _ hret => absurd rfl hret, nofun, fun _ => .inl hsp⟩
  · exact ⟨fun hcall => absurd rfl (hcall nnn), fun hcall => absurd rfl (hcall nnn), fun _ => .inl hsp, nofun⟩

/-- Settles O31: a flag writer that does not halt the engine did not end in the fault entry. -/
theorem flagWritersOnly : Obligations.FlagWritersOnly := by
  intro i s t h
  refine ⟨fun hw _ hes => ?_, (exec_effect h).keeps_VF⟩
  obtain ⟨c, rfl⟩ | ⟨f, hf⟩ := (exec_effect h).writesFlag_cases hw
  · exact absurd rfl hes
  · rw [hf]
    exact flagByte_eq_zero_or_one f

/-- Settles O32: the second state is the first one with other hidden parts, and `Effect.withHidden` executes there. -/
theorem hiddenStateStaysHidden : Obligations.HiddenStateStaysHidden := by
  intro i s s' t hag h
  obtain ⟨hs', hmem⟩ := agree_programVisible_iff.mp hag
  rw [hs'] at hmem ⊢
  obtain ⟨t', heff, ht', hmem'⟩ := (exec_effect h).withHidden hmem
  exact ⟨t', heff.exec_eq, agree_programVisible_iff.mpr ⟨ht', hmem'⟩⟩

/-- Settles O1: both reset states are the table's, at some counter of draws. -/
theorem resetGivesEveryValue : Obligations.ResetGivesEveryValue :=
  ⟨resetValues_resetWith Config.straps 0, fun s => resetValues_resetWith s.straps s.draws⟩

/-- Settles O2: the reset values meet the invariant whatever the straps. -/
theorem resetMeetsSound : Obligations.ResetMeetsSound :=
  ⟨sound_resetWith Config.straps, sound_resetWith⟩

end Sys2Proof.Machine

namespace Sys2Proof.Machine

/-! ### Who writes memory (R62, R66) -/

section Memory

variable {s t : State} {i : Instr}

/-- Fx33 and Fx55 are the only instructions that store (R62). -/
theorem Effect.keeps_mem (h : Effect s i t) (hi : ∀ x, i ≠ .ldB x ∧ i ≠ .ldMemVx x) : t.mem = s.mem := by
  cases h
  case ldB x _ _ => exact absurd rfl (hi x).1
  case ldMemVx x _ _ => exact absurd rfl (hi x).2
  all_goals simp

/-- The reserved region reads as before: what is stored is stored above it (R66). -/
theorem Effect.readByte_reserved (h : Effect s i t) {a : Nat} (ha : a < 0x200) : t.readByte a = s.readByte a := by
  obtain ⟨-, -, hstraps⟩ := h.keeps_hostOwned
  obtain hmem | ⟨b, bs, hb, -, hmem⟩ := h.mem_cases
  · exact State.readByte_congr hmem hstraps a
  · calc
      t.readByte a = (s.storeBytes b bs).readByte a := State.readByte_congr (s := s.storeBytes b bs) hmem hstraps a
      _ = s.readByte a := State.readByte_storeBytes_outside (.inl (by omega))

@[simp] theorem State.readByte_finish (s : State) (a : Nat) : s.finish.readByte a = s.readByte a := by
  unfold State.finish
  split <;> rfl

end Memory

/-! ### What Fx55 stored (R195) -/

/-- The registers stored from `a` up are at their numbers' offsets. -/
theorem State.readByte_storeBytes_regsUpTo (s : State) (a : Nat) {r x : Reg} (hr : r ≤ x) :
    (s.storeBytes a (s.regsUpTo x)).readByte (a + r.val) = s.reg r := by
  have hlen : r.val < (s.regsUpTo x).length := by
    rw [State.length_regsUpTo]
    exact Nat.lt_succ_of_le hr
  rw [State.readByte_storeBytes_inside hlen, State.getElem_regsUpTo hlen r.isLt]

/-- An address `k` above `I` does not wrap while it is in memory (R24, R63). -/
theorem State.toNat_i_add {s : State} {k : Nat} (h : s.i.toNat + k ≤ 0xFFF) :
    (s.i + BitVec.ofNat 16 k).toNat = s.base + k := by
  rw [State.base, BitVec.toNat_add, BitVec.toNat_ofNat]
  omega

/-! ### The statements -/

/-- Settles O26: an instruction by its effect on memory; a step executes one, or is idle and leaves memory. -/
theorem memoryWritersAndReservedRegion : Obligations.MemoryWritersAndReservedRegion := by
  refine ⟨fun i s t h hi => ?instruction, fun s t h a ha => ?step⟩
  case instruction =>
    obtain ⟨-, -, hstraps⟩ := (exec_effect h).keeps_hostOwned
    exact State.readByte_congr ((exec_effect h).keeps_mem hi) hstraps
  case step =>
    obtain hidle | ⟨i, u, -, hu, rfl⟩ := step_executes_or_idle h
    · exact hidle .mem (by decide) a
    · rw [State.readByte_finish]
      exact hu.readByte_reserved ha

/-- Settles O34: the fetch at `I + k` reads the bytes where Fx55 stored `V[k]` and `V[k + 1]`. -/
theorem storedCodeIsFetched : Obligations.StoredCodeIsFetched := by
  intro x s k hk hlow hhigh
  refine ⟨_, (Effect.ldMemVx x hhigh hlow).exec_eq, ?_⟩
  have hpc : (s.i + BitVec.ofNat 16 k.val).toNat = s.base + k.val := State.toNat_i_add (by omega)
  have hfirst := s.readByte_storeBytes_regsUpTo s.base (r := ⟨k.val, by omega⟩) (x := x) (Nat.le_of_lt hk)
  have hsecond := s.readByte_storeBytes_regsUpTo s.base (r := ⟨k.val + 1, by omega⟩) (x := x) hk
  rw [State.wordAtPc, hpc]
  exact congrArg₂ wordOfBytes hfirst hsecond

end Sys2Proof.Machine

namespace Sys2Proof

/-! ### The words of each instruction (R91, R92, R100) -/

section Formats

variable {w : Word} {op : BitVec 4}

theorem formatA_of_fields (hop : opField w = op) : formatA op (nnnField w) = w :=
  BitVec.eq_of_toNat_eq (by rw [← hop, formatA_toNat, opField_toNat, nnnField_toNat]; omega)

theorem formatI_of_fields {kk : Byte} (hop : opField w = op) (hkk : kkField w = kk) : formatI op (xField w) kk = w :=
  BitVec.eq_of_toNat_eq (by rw [← hop, ← hkk, formatI_toNat, opField_toNat, xField_val, kkField_toNat]; omega)

theorem formatR_of_fields {n : BitVec 4} (hop : opField w = op) (hn : nibbleField w = n) :
    formatR op (xField w) (yField w) n = w :=
  BitVec.eq_of_toNat_eq (by
    rw [← hop, ← hn, formatR_toNat, opField_toNat, xField_val, yField_val, nibbleField_toNat]; omega)

end Formats

/-- A field in no list of codes is, as a number, none of theirs. -/
theorem toNat_not_mem {n : Nat} {b : BitVec n} {codes : List (BitVec n)} (h : b ∉ codes) :
    b.toNat ∉ codes.map BitVec.toNat :=
  mt (List.mem_map_of_injective fun _ _ => BitVec.eq_of_toNat_eq).mp h

/-- What decoding answers, by the form of the word: each instruction with all of its words, ignored bits at any value,
and the words whose secondary code is in no list of R95 to R98. -/
inductive Decodes : Word → Except Reject Instr → Prop where
  | cls (x : Reg) : Decodes (formatI 0x0 x 0xE0) (.ok .cls)
  | ret (x : Reg) : Decodes (formatI 0x0 x 0xEE) (.ok .ret)
  | jp (nnn : Addr) : Decodes (formatA 0x1 nnn) (.ok (.jp nnn))
  | call (nnn : Addr) : Decodes (formatA 0x2 nnn) (.ok (.call nnn))
  | seKk (x : Reg) (kk : Byte) : Decodes (formatI 0x3 x kk) (.ok (.seKk x kk))
  | sneKk (x : Reg) (kk : Byte) : Decodes (formatI 0x4 x kk) (.ok (.sneKk x kk))
  | seVy (x y : Reg) (n : BitVec 4) : Decodes (formatR 0x5 x y n) (.ok (.seVy x y))
  | ldKk (x : Reg) (kk : Byte) : Decodes (formatI 0x6 x kk) (.ok (.ldKk x kk))
  | addKk (x : Reg) (kk : Byte) : Decodes (formatI 0x7 x kk) (.ok (.addKk x kk))
  | ldVy (x y : Reg) : Decodes (formatR 0x8 x y 0x0) (.ok (.ldVy x y))
  | orVy (x y : Reg) : Decodes (formatR 0x8 x y 0x1) (.ok (.orVy x y))
  | andVy (x y : Reg) : Decodes (formatR 0x8 x y 0x2) (.ok (.andVy x y))
  | xorVy (x y : Reg) : Decodes (formatR 0x8 x y 0x3) (.ok (.xorVy x y))
  | addVy (x y : Reg) : Decodes (formatR 0x8 x y 0x4) (.ok (.addVy x y))
  | sub (x y : Reg) : Decodes (formatR 0x8 x y 0x5) (.ok (.sub x y))
  | shr (x y : Reg) : Decodes (formatR 0x8 x y 0x6) (.ok (.shr x y))
  | subn (x y : Reg) : Decodes (formatR 0x8 x y 0x7) (.ok (.subn x y))
  | shl (x y : Reg) : Decodes (formatR 0x8 x y 0xE) (.ok (.shl x y))
  | sneVy (x y : Reg) (n : BitVec 4) : Decodes (formatR 0x9 x y n) (.ok (.sneVy x y))
  | ldI (nnn : Addr) : Decodes (formatA 0xA nnn) (.ok (.ldI nnn))
  | jpV0 (nnn : Addr) : Decodes (formatA 0xB nnn) (.ok (.jpV0 nnn))
  | rnd (x : Reg) (kk : Byte) : Decodes (formatI 0xC x kk) (.ok (.rnd x kk))
  | drw (x y : Reg) (n : BitVec 4) : Decodes (formatR 0xD x y n) (.ok (.drw x y n.toNat))
  | skp (x : Reg) : Decodes (formatI 0xE x 0x9E) (.ok (.skp x))
  | sknp (x : Reg) : Decodes (formatI 0xE x 0xA1) (.ok (.sknp x))
  | ldVxDt (x : Reg) : Decodes (formatI 0xF x 0x07) (.ok (.ldVxDt x))
  | ldVxK (x : Reg) : Decodes (formatI 0xF x 0x0A) (.ok (.ldVxK x))
  | ldDtVx (x : Reg) : Decodes (formatI 0xF x 0x15) (.ok (.ldDtVx x))
  | ldStVx (x : Reg) : Decodes (formatI 0xF x 0x18) (.ok (.ldStVx x))
  | addI (x : Reg) : Decodes (formatI 0xF x 0x1E) (.ok (.addI x))
  | ldF (x : Reg) : Decodes (formatI 0xF x 0x29) (.ok (.ldF x))
  | ldB (x : Reg) : Decodes (formatI 0xF x 0x33) (.ok (.ldB x))
  | ldMemVx (x : Reg) : Decodes (formatI 0xF x 0x55) (.ok (.ldMemVx x))
  | ldVxMem (x : Reg) : Decodes (formatI 0xF x 0x65) (.ok (.ldVxMem x))
  | bad0 {w : Word} (hop : opField w = 0x0) (hkk : kkField w ∉ [0xE0, 0xEE]) : Decodes w (.error (.badOpcode w))
  | bad8 {w : Word} (hop : opField w = 0x8) (hn : nibbleField w ∉ [0x0, 0x1, 0x2, 0x3, 0x4, 0x5, 0x6, 0x7, 0xE]) :
      Decodes w (.error (.badOpcode w))
  | badE {w : Word} (hop : opField w = 0xE) (hkk : kkField w ∉ [0x9E, 0xA1]) : Decodes w (.error (.badOpcode w))
  | badF {w : Word} (hop : opField w = 0xF)
      (hkk : kkField w ∉ [0x07, 0x0A, 0x15, 0x18, 0x1E, 0x29, 0x33, 0x55, 0x65]) : Decodes w (.error (.badOpcode w))

section Decoder

variable {w : Word}

theorem Decodes.congr {v : Word} {r : Except Reject Instr} (h : Decodes v r) (hw : v = w) : Decodes w r := hw ▸ h

theorem decodes_family0 (hop : opField w = 0x0) : Decodes w (decodeFamily0 w) := by
  unfold decodeFamily0
  split
  next hkk => exact (Decodes.cls _).congr (formatI_of_fields hop hkk)
  next hkk => exact (Decodes.ret _).congr (formatI_of_fields hop hkk)
  next => exact .bad0 hop (by simp_all)

theorem decodes_family8 (hop : opField w = 0x8) : Decodes w (decodeFamily8 w) := by
  unfold decodeFamily8
  split
  next hn => exact (Decodes.ldVy _ _).congr (formatR_of_fields hop hn)
  next hn => exact (Decodes.orVy _ _).congr (formatR_of_fields hop hn)
  next hn => exact (Decodes.andVy _ _).congr (formatR_of_fields hop hn)
  next hn => exact (Decodes.xorVy _ _).congr (formatR_of_fields hop hn)
  next hn => exact (Decodes.addVy _ _).congr (formatR_of_fields hop hn)
  next hn => exact (Decodes.sub _ _).congr (formatR_of_fields hop hn)
  next hn => exact (Decodes.shr _ _).congr (formatR_of_fields hop hn)
  next hn => exact (Decodes.subn _ _).congr (formatR_of_fields hop hn)
  next hn => exact (Decodes.shl _ _).congr (formatR_of_fields hop hn)
  next => exact .bad8 hop (by simp_all)

theorem decodes_familyE (hop : opField w = 0xE) : Decodes w (decodeFamilyE w) := by
  unfold decodeFamilyE
  split
  next hkk => exact (Decodes.skp _).congr (formatI_of_fields hop hkk)
  next hkk => exact (Decodes.sknp _).congr (formatI_of_fields hop hkk)
  next => exact .badE hop (by simp_all)

theorem decodes_familyF (hop : opField w = 0xF) : Decodes w (decodeFamilyF w) := by
  unfold decodeFamilyF
  split
  next hkk => exact (Decodes.ldVxDt _).congr (formatI_of_fields hop hkk)
  next hkk => exact (Decodes.ldVxK _).congr (formatI_of_fields hop hkk)
  next hkk => exact (Decodes.ldDtVx _).congr (formatI_of_fields hop hkk)
  next hkk => exact (Decodes.ldStVx _).congr (formatI_of_fields hop hkk)
  next hkk => exact (Decodes.addI _).congr (formatI_of_fields hop hkk)
  next hkk => exact (Decodes.ldF _).congr (formatI_of_fields hop hkk)
  next hkk => exact (Decodes.ldB _).congr (formatI_of_fields hop hkk)
  next hkk => exact (Decodes.ldMemVx _).congr (formatI_of_fields hop hkk)
  next hkk => exact (Decodes.ldVxMem _).congr (formatI_of_fields hop hkk)
  next => exact .badF hop (by simp_all)

/-- The last arm of the decoder is family F (R94). -/
theorem eq_F_of_not_mem : ∀ op : BitVec 4,
    op ∉ [0x0, 0x1, 0x2, 0x3, 0x4, 0x5, 0x6, 0x7, 0x8, 0x9, 0xA, 0xB, 0xC, 0xD, 0xE] → op = 0xF := by decide

/-- What decoding answers, said once: every word has one of the forms of `Decodes`. -/
theorem decodes_decodeWord (w : Word) : Decodes w (decodeWord w) := by
  unfold decodeWord
  split
  next hop => exact decodes_family0 hop
  next hop => exact (Decodes.jp _).congr (formatA_of_fields hop)
  next hop => exact (Decodes.call _).congr (formatA_of_fields hop)
  next hop => exact (Decodes.seKk _ _).congr (formatI_of_fields hop rfl)
  next hop => exact (Decodes.sneKk _ _).congr (formatI_of_fields hop rfl)
  next hop => exact (Decodes.seVy _ _ _).congr (formatR_of_fields hop rfl)
  next hop => exact (Decodes.ldKk _ _).congr (formatI_of_fields hop rfl)
  next hop => exact (Decodes.addKk _ _).congr (formatI_of_fields hop rfl)
  next hop => exact decodes_family8 hop
  next hop => exact (Decodes.sneVy _ _ _).congr (formatR_of_fields hop rfl)
  next hop => exact (Decodes.ldI _).congr (formatA_of_fields hop)
  next hop => exact (Decodes.jpV0 _).congr (formatA_of_fields hop)
  next hop => exact (Decodes.rnd _ _).congr (formatI_of_fields hop rfl)
  next hop => exact (Decodes.drw _ _ _).congr (formatR_of_fields hop rfl)
  next hop => exact decodes_familyE hop
  next => exact decodes_familyF (eq_F_of_not_mem _ (by simp_all))

theorem decodeWord_ok_or_bad (w : Word) : (∃ i, decodeWord w = .ok i) ∨ decodeWord w = .error (.badOpcode w) := by
  have h := decodes_decodeWord w
  generalize decodeWord w = r at h
  cases h
  case bad0 | bad8 | badE | badF => exact .inr rfl
  all_goals exact .inl ⟨_, rfl⟩

end Decoder

/-! ### Decoding a canonical word (R92, R100) -/

/-- The switches of the decoder find in a canonical word the codes and the operands it was made of. -/
theorem decodeWord_encode {i : Instr} (hwf : i.wellFormed = true) : decodeWord (encode i) = .ok i := by
  cases i
  case drw x y n =>
    have hn : n ≤ 15 := of_decide_eq_true hwf
    have hrows : n % 16 = n := Nat.mod_eq_of_lt (Nat.lt_succ_of_le hn)
    simp [encode, decodeWord, nField, hrows]
  case cls | ret => rfl
  case ldVy | orVy | andVy | xorVy | addVy | sub | shr | subn | shl => simp [encode, decodeWord, decodeFamily8]
  case skp | sknp => simp [encode, decodeWord, decodeFamilyE]
  case ldVxDt | ldVxK | ldDtVx | ldStVx | addI | ldF | ldB | ldMemVx | ldVxMem =>
    simp [encode, decodeWord, decodeFamilyF]
  all_goals simp [encode, decodeWord]

/-! ### The bits decoding does not examine (R95, R99) -/

section Masks

variable (op n : BitVec 4) (x y : Reg) (kk : Byte)

theorem formatI_and_F0FF : formatI op x kk &&& 0xF0FF = formatI op 0 kk :=
  BitVec.eq_of_toNat_eq (by rw [and_F0FF_toNat, formatI_toNat, formatI_toNat]; omega)

theorem formatR_and_FFF0 : formatR op x y n &&& 0xFFF0 = formatR op x y 0 := by
  calc formatR op x y n &&& 0xFFF0
      = (op ++ bitsOfReg x ++ bitsOfReg y &&& BitVec.allOnes 12) ++ (n &&& 0#4) :=
        BitVec.and_append (x₂ := BitVec.allOnes 12) (y₂ := 0#4)
    _ = formatR op x y 0 := by rw [BitVec.and_allOnes, BitVec.and_zero]; rfl

end Masks

theorem Decodes.wellFormed {w : Word} {i : Instr} (h : Decodes w (.ok i)) : i.wellFormed = true := by
  cases h
  case drw x y n => exact decide_eq_true (Nat.le_of_lt_succ n.isLt)
  all_goals rfl

theorem Decodes.encode_eq {w : Word} {i : Instr} (h : Decodes w (.ok i)) : encode i = w &&& i.examined := by
  cases h
  case cls | ret => exact (formatI_and_F0FF ..).symm
  case seVy | sneVy => exact (formatR_and_FFF0 ..).symm
  case drw x y n => 
    have hrow : formatR 0xD x y (BitVec.ofNat 4 n.toNat) = formatR 0xD x y n := by simp
    exact hrow.trans BitVec.and_allOnes.symm
  all_goals exact BitVec.and_allOnes.symm

/-! ### The lines of the opcode map (R93, R100, R104) -/

theorem opField_and (w m : Word) : opField (w &&& m) = opField w &&& opField m := BitVec.extractLsb'_and
theorem kkField_and (w m : Word) : kkField (w &&& m) = kkField w &&& kkField m := BitVec.extractLsb'_and
theorem nibbleField_and (w m : Word) : nibbleField (w &&& m) = nibbleField w &&& nibbleField m := BitVec.extractLsb'_and

section Lines

variable {p q : OpcodeRow} {w : Word}

/-- Every line examines the whole of `w[15:12]` (R93). -/
theorem opField_mask : ∀ p ∈ opcodeMap, opField p.mask = 0xF := by decide

theorem opField_of_hits (hp : p ∈ opcodeMap) (h : p.hits w = true) : opField w = opField p.pattern := by
  rw [← beq_iff_eq.mp h, opField_and, opField_mask p hp]
  exact BitVec.and_allOnes.symm

theorem kkField_of_hits (hm : kkField p.mask = 0xFF) (h : p.hits w = true) : kkField w = kkField p.pattern := by
  rw [← beq_iff_eq.mp h, kkField_and, hm]
  exact BitVec.and_allOnes.symm

theorem nibbleField_of_hits (hm : nibbleField p.mask = 0xF) (h : p.hits w = true) :
    nibbleField w = nibbleField p.pattern := by
  rw [← beq_iff_eq.mp h, nibbleField_and, hm]
  exact BitVec.and_allOnes.symm

theorem family0_lines : ∀ p ∈ opcodeMap, opField p.pattern = 0x0 →
    kkField p.mask = 0xFF ∧ kkField p.pattern ∈ [0xE0, 0xEE] := by decide

theorem family8_lines : ∀ p ∈ opcodeMap, opField p.pattern = 0x8 →
    nibbleField p.mask = 0xF ∧ nibbleField p.pattern ∈ [0x0, 0x1, 0x2, 0x3, 0x4, 0x5, 0x6, 0x7, 0xE] := by decide

theorem familyE_lines : ∀ p ∈ opcodeMap, opField p.pattern = 0xE →
    kkField p.mask = 0xFF ∧ kkField p.pattern ∈ [0x9E, 0xA1] := by decide

theorem familyF_lines : ∀ p ∈ opcodeMap, opField p.pattern = 0xF →
    kkField p.mask = 0xFF ∧ kkField p.pattern ∈ [0x07, 0x0A, 0x15, 0x18, 0x1E, 0x29, 0x33, 0x55, 0x65] := by decide

/-- A bad opcode matches no line: its family's lines have the secondary codes it has none of (R104). -/
theorem Decodes.not_hits {e : Reject} (h : Decodes w (.error e)) (hp : p ∈ opcodeMap) : p.hits w ≠ true := by
  intro hhit
  have hline := opField_of_hits hp hhit
  cases h
  case bad0 hop hkk =>
    obtain ⟨hm, hcode⟩ := family0_lines p hp (hline.symm.trans hop)
    exact hkk (kkField_of_hits hm hhit ▸ hcode)
  case bad8 hop hn =>
    obtain ⟨hm, hcode⟩ := family8_lines p hp (hline.symm.trans hop)
    exact hn (nibbleField_of_hits hm hhit ▸ hcode)
  case badE hop hkk =>
    obtain ⟨hm, hcode⟩ := familyE_lines p hp (hline.symm.trans hop)
    exact hkk (kkField_of_hits hm hhit ▸ hcode)
  case badF hop hkk =>
    obtain ⟨hm, hcode⟩ := familyF_lines p hp (hline.symm.trans hop)
    exact hkk (kkField_of_hits hm hhit ▸ hcode)

/-- Any two lines of the map differ in a bit that both examine. -/
theorem eq_of_patterns_agree : ∀ p ∈ opcodeMap, ∀ q ∈ opcodeMap,
    p.pattern &&& q.mask = q.pattern &&& p.mask → p = q := by decide

theorem hits_unique (hp : p ∈ opcodeMap) (hq : q ∈ opcodeMap) (hpw : p.hits w = true) (hqw : q.hits w = true) :
    p = q := by
  refine eq_of_patterns_agree p hp q hq ?_
  rw [← beq_iff_eq.mp hpw, ← beq_iff_eq.mp hqw, BitVec.and_assoc, BitVec.and_assoc, BitVec.and_comm p.mask]

end Lines

end Sys2Proof

namespace Sys2Proof.Machine

/-! ### The statements -/

/-- Settles O9, by the fields of the canonical word. -/
theorem decodeEncodeRoundTrip : Obligations.DecodeEncodeRoundTrip :=
  fun _ hwf => decodeWord_encode hwf

/-- Settles O10, by the form of the decoded word. -/
theorem encodeDecodeKeepsExaminedBits : Obligations.EncodeDecodeKeepsExaminedBits := by
  intro w i h
  have hdec : Decodes w (.ok i) := h ▸ decodes_decodeWord w
  exact ⟨hdec.wellFormed, hdec.encode_eq⟩

/-- Settles O11, by the form of the word. -/
theorem decodeByFamilies : Obligations.DecodeByFamilies := by
  intro w x y kk nnn hx hy hkk hnnn
  obtain rfl : x = xField w := Fin.ext (hx.trans (xField_val w).symm)
  obtain rfl : y = yField w := Fin.ext (hy.trans (yField_val w).symm)
  obtain rfl : kk = kkField w := BitVec.eq_of_toNat_eq (hkk.trans (kkField_toNat w).symm)
  obtain rfl : nnn = nnnField w := BitVec.eq_of_toNat_eq (hnnn.trans (nnnField_toNat w).symm)
  clear hx hy hkk hnnn
  rw [← opField_toNat, ← kkField_toNat, ← nibbleField_toNat]
  have h := decodes_decodeWord w
  generalize decodeWord w = r at h
  cases h
  case bad0 hop hkk | badE hop hkk | badF hop hkk =>
    have hcode := toNat_not_mem hkk
    rw [hop]
    generalize (kkField w).toNat = code at hcode ⊢
    split <;> simp at hcode ⊢ <;> contradiction
  case bad8 hop hn =>
    have hcode := toNat_not_mem hn
    rw [hop]
    generalize (nibbleField w).toNat = code at hcode ⊢
    split <;> simp at hcode ⊢ <;> contradiction
  case jp | call | ldI | jpV0 =>
    rw [opField_formatA, nnnField_formatA]
    exact rfl
  case seVy | sneVy | drw | ldVy | orVy | andVy | xorVy | addVy | sub | shr | subn | shl =>
    rw [opField_formatR, nibbleField_formatR, xField_formatR, yField_formatR]
    exact rfl
  all_goals
    rw [opField_formatI, kkField_formatI, xField_formatI]
    exact rfl

/-- Settles O12: a word that decodes to an instruction matches its line, a bad opcode none. -/
theorem opcodeMapPartitionsWords : Obligations.OpcodeMapPartitionsWords := by
  refine ⟨fun w p q => hits_unique, fun w => ⟨fun i h => ⟨(Laws.EncodesRow.every i).1, decodeWord_row h⟩, ?_, ?_⟩⟩
  · intro h p hp
    have hdec : Decodes w (.error (.badOpcode w)) := h ▸ decodes_decodeWord w
    exact Bool.eq_false_of_not_eq_true (hdec.not_hits hp)
  · intro h
    obtain ⟨i, hi⟩ | hbad := decodeWord_ok_or_bad w
    · exact absurd (decodeWord_row hi) (by rw [h _ (Laws.EncodesRow.every i).1]; nofun)
    · exact hbad

/-- Settles O13: each word is decoded. -/
theorem sampleWordsDecode : Obligations.SampleWordsDecode := by
  unfold Obligations.SampleWordsDecode
  decide

end Sys2Proof.Machine

namespace Sys2Proof.Machine

/-! ### Frames of the operations a step is made of -/

theorem OnlyChanges.refl (ps : List Part) (s : State) : OnlyChanges ps s s := by
  intro p _
  cases p <;> simp [State.same]

/-- A frame may list more than what changes. -/
theorem OnlyChanges.mono {ps qs : List Part} {s t : State} (h : OnlyChanges ps s t) (hsub : ∀ p ∈ ps, p ∈ qs) :
    OnlyChanges qs s t :=
  fun p hp => h p (mt (hsub p) hp)

section Frames

variable (s : State)

theorem State.onlyChanges_emit (e : Option BadOpcode) : OnlyChanges [.event] s (s.emit e) := by
  intro p hp
  cases p <;> simp_all [State.same]

theorem State.onlyChanges_setEs (e : Engine) : OnlyChanges [.es] s (s.setEs e) := by
  intro p hp
  cases p <;> simp_all [State.same]

theorem State.onlyChanges_tick : OnlyChanges [.dt, .st] s s.tick := by
  intro p hp
  cases p <;> simp_all [State.same]

theorem State.onlyChanges_badOpcode (w : Word) : OnlyChanges [.event, .pc] s (s.badOpcode w) := by
  intro p hp
  cases p <;> simp_all [State.same]

theorem State.onlyChanges_raise (c : Cause) : OnlyChanges [.es, .fault, .faultPc] s (s.raise c) := by
  obtain ⟨-, -, -, hframe⟩ := s.faultEntry_raise c
  exact hframe

end Frames

/-! ### The end of a step that executed (R129, R130) -/

section Finish

variable (s : State)

@[simp] theorem State.finish_es : s.finish.es = s.es := by unfold State.finish; split <;> rfl
@[simp] theorem State.finish_fault : s.finish.fault = s.fault := by unfold State.finish; split <;> rfl

end Finish

/-! ### Which instruction a step executes -/

theorem State.executes_iff_eq {s : State} {i j : Instr} (hi : s.executes i) : s.executes j ↔ i = j :=
  ⟨fun hj => Except.ok.inj (hi.2.symm.trans hj.2), fun hij => hij ▸ hi⟩

theorem State.not_executes_of_not_active {s : State} (h : ¬ (s.es = .ready ∨ s.es = .running)) (i : Instr) :
    ¬ s.executes i :=
  fun hi => h hi.1.1

theorem State.not_executes_of_error {s : State} {e : Reject} (h : decodeWord s.wordAtPc = .error e) (i : Instr) :
    ¬ s.executes i :=
  fun hi => nomatch h.symm.trans hi.2

theorem State.not_executes_of_pastEnd {s : State} (h : s.progEnd.toNat ≤ s.pc.toNat) (i : Instr) : ¬ s.executes i :=
  fun hi => Nat.not_lt_of_le h hi.1.2.1

theorem State.not_executes_of_fetchFault {s : State} (h : 0xFFF < s.pc.toNat + 1) (i : Instr) : ¬ s.executes i :=
  fun hi => Nat.not_lt_of_le hi.1.2.2 h

/-- The four ways a step from `Ready` or `Running` can go (R122, R124 to R128). -/
theorem step_active_cases {s t : State} (hes : s.es = .ready ∨ s.es = .running) (h : step s = .next t) :
    (s.progEnd.toNat ≤ s.pc.toNat ∧ t = (s.emit none).setEs .halted) ∨
    (s.pc.toNat < s.progEnd.toNat ∧ 0xFFF < s.pc.toNat + 1 ∧ t = (s.emit none).raise .memBounds) ∨
    (s.pc.toNat < s.progEnd.toNat ∧ (∃ e, decodeWord s.wordAtPc = .error e) ∧
      t = (((s.emit none).setEs .running).badOpcode s.wordAtPc).tick) ∨
    (s.pc.toNat < s.progEnd.toNat ∧
      ∃ i u, s.executes i ∧ Effect ((s.emit none).setEs .running) i u ∧ t = u.finish) := by
  obtain ⟨hno, -⟩ | ⟨hno, -⟩ | ⟨-, hend | hfault | ⟨hf, ⟨e, hd, ht⟩ | ⟨i, u, hd, hu, ht⟩⟩⟩ := step_cases h
  · rw [hno] at hes
    exact absurd hes (by decide)
  · rw [hno] at hes
    exact absurd hes (by decide)
  · exact .inl hend
  · exact .inr (.inl hfault)
  · exact .inr (.inr (.inl ⟨hf.2.1, ⟨e, hd⟩, ht⟩))
  · exact .inr (.inr (.inr ⟨hf.2.1, i, u, ⟨hf, hd⟩, exec_effect hu, ht⟩))

/-! ### What an instruction does to the engine and to the timers -/

section Effects

variable {s t : State} {i : Instr}

/-- A running engine halts by a fatal fault alone (R121, R129). -/
theorem Effect.halted_iff_fault (h : Effect s i t) (hrun : s.es = .running) (hf : s.fault = .none) :
    t.es = .halted ↔ t.fault ≠ .none := by
  obtain ⟨c, rfl, hc⟩ | ⟨x, -, rfl⟩ | hk := h.ends
  · exact ⟨fun _ => hc, fun _ => rfl⟩
  · exact ⟨nofun, fun hne => absurd hf hne⟩
  · rw [hk.es, hk.fault, hrun, hf]
    exact ⟨nofun, fun hne => absurd rfl hne⟩

/-- A running engine begins to wait by an Fx0A alone, and only with no key pressed (R121, R236). -/
theorem Effect.waits_iff (h : Effect s i t) (hrun : s.es = .running) :
    t.es = .waitingForKey ↔ (∃ x, i = .ldVxK x) ∧ ∀ k, s.key k = false := by
  cases h
  case ldVxK x k hk =>
    have hpressed : ¬ ∀ k, s.key k = false := fun hno => nomatch hk.symm.trans (State.pressedKey_none.mpr hno)
    simp [hrun, hpressed]
  case ldVxKWait x hk => simp [State.pressedKey_none.mp hk]
  all_goals simp [hrun]

theorem Effect.es_ne_ready (h : Effect s i t) (hrun : s.es = .running) : t.es ≠ .ready := by
  obtain ⟨c, rfl, -⟩ | ⟨x, -, rfl⟩ | hk := h.ends
  · nofun
  · nofun
  · rw [hk.es, hrun]
    nofun

/-- An instruction that halts a running engine ended in the fault entry (R256). -/
theorem Effect.raise_of_halted (h : Effect s i t) (hrun : s.es = .running) (hes : t.es = .halted) :
    ∃ c, t = s.raise c := by
  obtain ⟨c, rfl, -⟩ | ⟨x, -, rfl⟩ | hk := h.ends
  · exact ⟨c, rfl⟩
  · exact nomatch hes
  · exact nomatch hes.symm.trans (hk.es.trans hrun)

/-- Fx15 is the only instruction that writes `DT` (R239). -/
theorem Effect.keeps_dt (h : Effect s i t) (hi : ∀ x, i ≠ .ldDtVx x) : t.dt = s.dt := by
  cases h
  case ldDtVx x => exact absurd rfl (hi x)
  all_goals simp

/-- Fx18 is the only instruction that writes `ST` (R240). -/
theorem Effect.keeps_st (h : Effect s i t) (hi : ∀ x, i ≠ .ldStVx x) : t.st = s.st := by
  cases h
  case ldStVx x => exact absurd rfl (hi x)
  all_goals simp

theorem Effect.dt_of_ldDtVx {x : Reg} (h : Effect s (.ldDtVx x) t) : t.dt = s.reg x := by
  cases h
  rfl

theorem Effect.st_of_ldStVx {x : Reg} (h : Effect s (.ldStVx x) t) : t.st = s.reg x := by
  cases h
  rfl

end Effects

/-! ### The waiting step (R123) -/

section Waiting

variable {s t : State}

theorem State.pollKeys_pressed {k : Fin 16} (h : s.pressedKey = some k) :
    s.pollKeys = (s.putResult s.waitX (keyByte k)).setEs .running := by
  unfold State.pollKeys
  rw [h]

theorem State.pollKeys_none (h : s.pressedKey = none) : s.pollKeys = s := by
  unfold State.pollKeys
  rw [h]

theorem State.onlyChanges_pollKeys (s : State) : OnlyChanges [.v, .pc, .es] s s.pollKeys := by
  cases hk : s.pressedKey with
  | none =>
    rw [State.pollKeys_none hk]
    exact OnlyChanges.refl _ s
  | some k =>
    rw [State.pollKeys_pressed hk]
    exact (s.onlyChanges_putResult s.waitX _).trans (State.onlyChanges_setEs _ _)

@[simp] theorem State.pollKeys_dt (s : State) : s.pollKeys.dt = s.dt := s.onlyChanges_pollKeys .dt (by decide)
@[simp] theorem State.pollKeys_st (s : State) : s.pollKeys.st = s.st := s.onlyChanges_pollKeys .st (by decide)
@[simp] theorem State.pollKeys_event (s : State) : s.pollKeys.event = s.event :=
  s.onlyChanges_pollKeys .event (by decide)
@[simp] theorem State.pollKeys_fault (s : State) : s.pollKeys.fault = s.fault :=
  s.onlyChanges_pollKeys .fault (by decide)

/-- With a key pressed the wait ends, with none it goes on (R121, R123). -/
theorem State.pollKeys_es_cases (hes : s.es = .waitingForKey) :
    (s.pollKeys.es = .running ∧ ∃ k, s.key k = true) ∨
    (s.pollKeys.es = .waitingForKey ∧ ∀ k, s.key k = false) := by
  obtain ⟨k, hk, hpoll⟩ | ⟨hk, hpoll⟩ := s.pollKeys_cases
  · rw [hpoll]
    exact .inl ⟨rfl, k, (State.pressedKey_some.mp hk).1⟩
  · rw [hpoll]
    exact .inr ⟨hes, State.pressedKey_none.mp hk⟩

/-- With no key pressed a waiting step is the timer tick alone. -/
theorem step_waitsOn (hes : s.es = .waitingForKey) (hno : ∀ k, s.key k = false) :
    step s = .next (s.emit none).tick := by
  have hkey : (s.emit none).pressedKey = none := State.pressedKey_none.mpr hno
  rw [step_waiting hes, State.pollKeys_none hkey]

theorem State.onlyChanges_emit_tick (s : State) : OnlyChanges [.dt, .st, .event] s (s.emit none).tick :=
  ((s.onlyChanges_emit none).trans (State.onlyChanges_tick _)).mono (by decide)

end Waiting

/-! ### The engine over a step (R121) -/

section Engine

variable {s t : State}

theorem loadProgram_keeps_es {bytes : List Byte} {r : LoadResult} (h : s.loadProgram bytes = .next (t, r)) :
    t.es = s.es := by
  unfold State.loadProgram at h
  cases hes : s.es
  case ready =>
    rw [hes] at h
    simp only at h
    split at h <;> cases h <;> exact hes
  all_goals
    rw [hes] at h
    cases h

theorem step_es_ne_ready (h : step s = .next t) : t.es ≠ .ready := by
  obtain ⟨hes, rfl⟩ | ⟨hes, rfl⟩ | ⟨-, ⟨-, rfl⟩ | ⟨-, -, rfl⟩ | ⟨-, ⟨e, -, rfl⟩ | ⟨i, u, -, hu, rfl⟩⟩⟩ := step_cases h
  case inl => simp [hes]
  case inr.inl =>
    obtain ⟨hpoll, -⟩ | ⟨hpoll, -⟩ := State.pollKeys_es_cases (s := s.emit none) hes <;> simp [hpoll]
  case inr.inr.inr.inr.inr =>
    rw [State.finish_es]
    exact (exec_effect hu).es_ne_ready rfl
  all_goals simp

/-- From `Ready` or `Running` the engine halts at the end of the program or by a fatal fault. -/
theorem step_halts_iff (hes : s.es = .ready ∨ s.es = .running) (hf : s.fault = .none) (h : step s = .next t) :
    t.es = .halted ↔ s.progEnd.toNat ≤ s.pc.toNat ∨ t.fault ≠ .none := by
  obtain ⟨hend, rfl⟩ | ⟨hlt, -, rfl⟩ | ⟨hlt, -, rfl⟩ | ⟨hlt, i, u, -, hu, rfl⟩ := step_active_cases hes h
  · simp [hend]
  · simp
  · simp [hlt, hf]
  · rw [State.finish_es, State.finish_fault, hu.halted_iff_fault rfl hf]
    simp [hlt]

/-- From `Ready` or `Running` the engine waits if it executes an Fx0A with no key pressed. -/
theorem step_waits_iff (hes : s.es = .ready ∨ s.es = .running) (h : step s = .next t) :
    t.es = .waitingForKey ↔ (∃ x, s.executes (.ldVxK x)) ∧ ∀ k, s.key k = false := by
  obtain ⟨hend, rfl⟩ | ⟨-, hb, rfl⟩ | ⟨-, ⟨e, hd⟩, rfl⟩ | ⟨-, i, u, hi, hu, rfl⟩ := step_active_cases hes h
  · simp [State.not_executes_of_pastEnd hend]
  · simp [State.not_executes_of_fetchFault hb]
  · simp [State.not_executes_of_error hd]
  · rw [State.finish_es, hu.waits_iff rfl]
    simp [State.executes_iff_eq hi]

end Engine

/-! ### The timers over a step (R130) -/

section Timers

variable {s t : State}

/-- Each timer counts down once from `s` to `t`, from its value in `s` or from the value that an Fx15 or Fx18 at `PC`
gives it. -/
def TimersTicked (s t : State) : Prop :=
  ((∀ x, ¬ s.executes (.ldDtVx x)) → t.dt.toNat = s.dt.toNat - 1) ∧
  ((∀ x, ¬ s.executes (.ldStVx x)) → t.st.toNat = s.st.toNat - 1) ∧
  (∀ x, s.executes (.ldDtVx x) → t.dt.toNat = (s.reg x).toNat - 1) ∧
  (∀ x, s.executes (.ldStVx x) → t.st.toNat = (s.reg x).toNat - 1)

/-- A tick that follows no instruction. -/
theorem timersTicked_of_not_executes {u : State} (hno : ∀ i, ¬ s.executes i) (hdt : u.dt = s.dt) (hst : u.st = s.st) :
    TimersTicked s u.tick := by
  simp [TimersTicked, hno, hdt, hst, countDown_toNat]

/-- The tick after an instruction. -/
theorem Effect.timersTicked {i : Instr} {u : State} (h : Effect ((s.emit none).setEs .running) i u)
    (hi : s.executes i) : TimersTicked s u.tick := by
  simp only [TimersTicked, State.executes_iff_eq hi, State.tick_dt, State.tick_st, countDown_toNat]
  refine ⟨fun hne => ?_, fun hne => ?_, ?_, ?_⟩
  · rw [h.keeps_dt hne]; rfl
  · rw [h.keeps_st hne]; rfl
  · rintro x rfl
    rw [h.dt_of_ldDtVx]; rfl
  · rintro x rfl
    rw [h.st_of_ldStVx]; rfl

end Timers

/-! ### A placed word (log entry 6) -/

section PlacedWord

variable (s : State) (w : Word)

@[simp] theorem length_bytesOfWord : (bytesOfWord w).length = 2 := rfl

theorem tableWord_toNat : tableWord 16 w.toNat = w :=
  BitVec.eq_of_toNat_eq (by rw [tableWord, BitVec.toNat_ofNat]; omega)

theorem State.fetchAddr_le : s.fetchAddr.toNat ≤ 0xFFE := by
  unfold State.fetchAddr
  split
  · assumption
  · decide

theorem State.placeWord_fetches : (s.placeWord w).fetches := by
  have hle := s.fetchAddr_le
  refine ⟨?engine, ?before, Nat.succ_le_succ hle⟩
  case engine =>
    unfold State.placeWord
    cases s.es
    case ready => exact .inl rfl
    all_goals exact .inr rfl
  case before =>
    show s.fetchAddr.toNat < BitVec.toNat (if _ then _ else _)
    split
    · assumption
    · bv_omega

/-- The two bytes of the word stand at the address that is fetched, the high one first (R70). -/
theorem State.placeWord_wordAtPc : (s.placeWord w).wordAtPc = w := by
  have hfirst := State.readByte_storeBytes_inside (s := s) (a := s.fetchAddr.toNat) (bs := bytesOfWord w) (k := 0)
    (Nat.zero_lt_succ 1)
  have hsecond := State.readByte_storeBytes_inside (s := s) (a := s.fetchAddr.toNat) (bs := bytesOfWord w) (k := 1)
    (Nat.one_lt_succ_succ 0)
  exact (congrArg₂ wordOfBytes hfirst hsecond).trans (wordOfBytes_bytes w)

theorem State.placeWord_bytesOutside : BytesOutside s.fetchAddr.toNat 2 s (s.placeWord w) := by
  intro b hb
  have hout : b < s.fetchAddr.toNat ∨ s.fetchAddr.toNat + (bytesOfWord w).length ≤ b := by
    rw [length_bytesOfWord]
    omega
  exact State.readByte_storeBytes_outside (s := s) hout

theorem State.onlyChanges_placeWord : OnlyChanges [.mem, .pc, .progEnd, .es] s (s.placeWord w) := by
  intro p hp
  cases p
  case mem | pc | progEnd | es => exact absurd hp (by decide)
  case v | stack | keys => exact fun _ => rfl
  case fb => exact fun _ _ => rfl
  all_goals rfl

end PlacedWord

/-! ### The statements -/

/-- Settles O17: the poll finds the smallest pressed key or none, and the tick follows in both cases. -/
theorem waitingStepPollsKeys : Obligations.WaitingStepPollsKeys := by
  intro s hes
  refine ⟨_, step_waiting hes, ?dt, ?st, ?event, fun k hk hmin => ?pressed, fun hno => ?none⟩
  case dt => simp [countDown_toNat]
  case st => simp [countDown_toNat]
  case event => simp
  case pressed =>
    have hkey : (s.emit none).pressedKey = some k := State.pressedKey_some.mpr ⟨hk, hmin⟩
    rw [State.pollKeys_pressed hkey]
    refine ⟨?value, State.regsExcept_putResult (s.emit none) s.waitX _, rfl, rfl, ?frame⟩
    case value => simp [keyByte_toNat]
    case frame =>
      exact ((((s.onlyChanges_emit none).trans (State.onlyChanges_putResult _ _ _)).trans
        (State.onlyChanges_setEs _ _)).trans (State.onlyChanges_tick _)).mono (by decide)
  case none =>
    have hkey : (s.emit none).pressedKey = none := State.pressedKey_none.mpr hno
    rw [State.pollKeys_none hkey]
    exact s.onlyChanges_emit_tick

/-- Settles O19: of the ways a step can go only the fetch fault and an instruction's fault entry set `FAULT`. -/
theorem fatalFaultChangesRecordOnly : Obligations.FatalFaultChangesRecordOnly := by
  intro s t h hf ht
  obtain ⟨-, rfl⟩ | ⟨-, rfl⟩ | ⟨-, ⟨-, rfl⟩ | ⟨-, -, rfl⟩ | ⟨-, ⟨e, -, rfl⟩ | ⟨i, u, -, hu, rfl⟩⟩⟩ := step_cases h
  case inr.inr.inr.inl =>
    exact ⟨rfl, rfl, rfl, ((s.onlyChanges_emit none).trans (State.onlyChanges_raise _ _)).mono (by decide)⟩
  case inr.inr.inr.inr.inr =>
    have heff := exec_effect hu
    rw [State.finish_fault] at ht
    have hhalt : u.es = .halted := (heff.halted_iff_fault rfl hf).mpr ht
    obtain ⟨c, rfl⟩ := heff.raise_of_halted rfl hhalt
    rw [State.finish_halted hhalt]
    refine ⟨rfl, rfl, rfl, ?_⟩
    exact (((s.onlyChanges_emit none).trans (State.onlyChanges_setEs _ _)).trans (State.onlyChanges_raise _ _)).mono
      (by decide)
  all_goals exact absurd (by simpa using hf) ht

/-- Settles O21: a waiting engine by its poll, an active one by the ways its step can go. -/
theorem engineTransitions : Obligations.EngineTransitions := by
  refine ⟨fun _ => rfl, fun s t bytes r h => loadProgram_keeps_es h, fun s t h => ?_⟩
  refine ⟨step_es_ne_ready h, fun hes => ?halted, fun hes => ?waiting, fun hes hf => ?active⟩
  case halted =>
    obtain rfl := Host.Outcome.next.inj ((step_halted hes).symm.trans h)
    exact hes
  case waiting =>
    obtain rfl := Host.Outcome.next.inj ((step_waiting hes).symm.trans h)
    obtain ⟨hpoll, hkey⟩ | ⟨hpoll, hkey⟩ := State.pollKeys_es_cases (s := s.emit none) hes
    · simpa [hpoll] using hkey
    · simpa [hpoll] using hkey
  case active =>
    refine ⟨step_halts_iff hes hf h, fun hend => ?_, step_waits_iff hes h⟩
    obtain rfl := Host.Outcome.next.inj ((step_pastEnd hes hend).symm.trans h)
    exact hf

/-- Settles O22: a step that halts is a clean halt or a fault entry, and any other is a tick. -/
theorem timersTickOncePerStep : Obligations.TimersTickOncePerStep := by
  intro s t h
  show _ ∧ (t.es ≠ .halted → TimersTicked s t)
  obtain ⟨hes, rfl⟩ | ⟨hes, rfl⟩ | ⟨-, ⟨-, rfl⟩ | ⟨-, -, rfl⟩ | ⟨hf, ⟨e, hd, rfl⟩ | ⟨i, u, hd, hu, rfl⟩⟩⟩ :=
    step_cases h
  case inl => exact ⟨fun _ => ⟨rfl, rfl⟩, fun hne => absurd hes hne⟩
  case inr.inl =>
    have hne : (s.emit none).pollKeys.es ≠ .halted := by
      obtain ⟨hpoll, -⟩ | ⟨hpoll, -⟩ := State.pollKeys_es_cases (s := s.emit none) hes <;> simp [hpoll]
    have hno : ∀ i, ¬ s.executes i := State.not_executes_of_not_active (by simp [hes])
    exact ⟨fun hhalt => absurd hhalt hne, fun _ => timersTicked_of_not_executes hno (by simp) (by simp)⟩
  case inr.inr.inr.inr.inl =>
    exact ⟨nofun, fun _ => timersTicked_of_not_executes (State.not_executes_of_error hd) rfl rfl⟩
  case inr.inr.inr.inr.inr =>
    have heff := exec_effect hu
    rw [State.finish_es]
    refine ⟨fun hhalt => ?_, fun hne => ?_⟩
    · obtain ⟨c, rfl⟩ := heff.raise_of_halted rfl hhalt
      rw [State.finish_halted hhalt]
      exact ⟨rfl, rfl⟩
    · rw [State.finish_other hne]
      exact heff.timersTicked ⟨hf, hd⟩
  all_goals exact ⟨fun _ => ⟨rfl, rfl⟩, fun hne => absurd rfl hne⟩

/-- Settles O23, by induction on the length of the run: each step is the tick of `step_waitsOn`. -/
theorem longWaitOnlyCountsDown : Obligations.LongWaitOnlyCountsDown := by
  intro m
  induction m with
  | zero => exact fun s _ _ => ⟨s, rfl, rfl, rfl, OnlyChanges.refl _ s⟩
  | succ m ih =>
    intro s hes hno
    obtain ⟨t, hrun, hdt, hst, hframe⟩ := ih (s.emit none).tick hes hno
    refine ⟨t, (core_run_succ m (step_waitsOn hes hno)).trans hrun, ?dt, ?st, ?frame⟩
    case dt =>
      rw [hdt, State.tick_dt, countDown_toNat, State.emit_dt]
      omega
    case st =>
      rw [hst, State.tick_st, countDown_toNat, State.emit_st]
      omega
    case frame => exact (s.onlyChanges_emit_tick.trans hframe).mono (by decide)

/-- Settles O24, by induction on the length of the run. -/
theorem haltedRunIsConstant : Obligations.HaltedRunIsConstant := by
  intro m s hes hev
  have hstep : step s = .next s := by
    rw [step_halted hes, ← hev]
    rfl
  induction m with
  | zero => rfl
  | succ m ih => rw [core_run_succ m hstep, ih]

/-- Settles O8: a word placed at the address that is fetched, which is `PC` where a word fits there. -/
theorem placedWordIsExecuted : Obligations.PlacedWordIsExecuted := by
  intro s w
  rw [State.withFetchWord, tableWord_toNat]
  exact ⟨s.placeWord_fetches w, s.placeWord_wordAtPc w, s.placeWord_bytesOutside w, fun hfit => if_pos hfit,
    s.onlyChanges_placeWord w⟩

/-- Settles O14: `State.finish` is the tick unless the execute phase ended in `Halted`. -/
theorem stepRunsDecodedInstruction : Obligations.StepRunsDecodedInstruction := by
  intro s i hi
  obtain ⟨t, heff, hstep⟩ := step_executes hi
  exact ⟨t, heff.exec_eq, hstep⟩

/-- Settles O15: the step empties the diagnostic output. -/
theorem stepWhileHalted : Obligations.StepWhileHalted :=
  fun s hes => ⟨_, step_halted hes, rfl, s.onlyChanges_emit none⟩

/-- Settles O16: the step empties the diagnostic output and sets `ES`. -/
theorem cleanHaltAtProgramEnd : Obligations.CleanHaltAtProgramEnd :=
  fun s hes hend => ⟨_, step_pastEnd hes hend, rfl, rfl,
    ((s.onlyChanges_emit none).trans (State.onlyChanges_setEs _ _)).mono (by decide)⟩

/-- Settles O18: the frame is that of the step's operations in a row. -/
theorem badOpcodeIsSkipped : Obligations.BadOpcodeIsSkipped := by
  intro s hf hbad
  refine ⟨_, (step_fetches hf).trans (execWord_bad hbad), rfl, rfl, rfl, countDown_toNat _, countDown_toNat _, ?_⟩
  exact ((((s.onlyChanges_emit none).trans (State.onlyChanges_setEs _ _)).trans
    (State.onlyChanges_badOpcode _ _)).trans (State.onlyChanges_tick _)).mono (by decide)

end Sys2Proof.Machine

namespace Sys2Proof.Machine

/-! ### Frames of the control transfers -/

section Frames

variable (s : State)

theorem State.onlyChanges_setPc (a : Word) : OnlyChanges [.pc] s (s.setPc a) := by
  intro p hp
  cases p <;> simp_all [State.same]

theorem State.onlyChanges_skipIf (c : Bool) : OnlyChanges [.pc] s (s.skipIf c) := by
  cases c
  case false => exact s.onlyChanges_setPc (s.pc + 2)
  case true => exact s.onlyChanges_setPc (s.pc + 4)

/-- A new `SP` and `PC`, as a return leaves them. -/
theorem State.onlyChanges_sp_pc (n : Fin 17) (a : Word) : OnlyChanges [.sp, .pc] s { s with sp := n, pc := a } := by
  intro p hp
  cases p <;> simp_all [State.same, State.reg, State.readByte, State.key, State.pixel]

theorem State.onlyChanges_stack (st : Vector Word 16) : OnlyChanges [.stack] s { s with stack := st } := by
  intro p hp
  cases p <;> simp_all [State.same, State.reg, State.readByte, State.key, State.pixel]

end Frames

/-! ### Targets and skips -/

/-- The sum fits 16 bits: at most 0xFFF + 0xFF (R146). -/
theorem zextAddr_add_zextByte_toNat (nnn : Addr) (b : Byte) :
    (zextAddr nnn + zextByte b).toNat = nnn.toNat + b.toNat := by
  rw [BitVec.toNat_add, zextAddr_toNat, zextByte_toNat]
  omega

/-- An instruction that ends in `skipIf` moves `PC` by 4 where its test holds, by 2 where it fails, and changes nothing
else (R127). -/
theorem Effect.skips {s : State} {i : Instr} {c : Bool} {P Q : Prop} (h : Effect s i (s.skipIf c))
    (hholds : P → c = true) (hfails : Q → c = false) :
    ∃ t, exec i s = .next t ∧ OnlyChanges [.pc] s t ∧ (P → t.pc = s.pc + 4) ∧ (Q → t.pc = s.pc + 2) := by
  refine ⟨_, h.exec_eq, s.onlyChanges_skipIf c, fun hP => ?holds, fun hQ => ?fails⟩
  case holds => rw [State.skipIf_pc, hholds hP, if_pos rfl]
  case fails => rw [State.skipIf_pc, hfails hQ, if_neg Bool.false_ne_true]

/-! ### The statements -/

/-- Settles O35: a target of 12 bits, or one plus a byte, is not truncated. -/
theorem jumpsSetThePc : Obligations.JumpsSetThePc := by
  intro nnn s
  refine ⟨Laws.EncodesRow.encodedAs (.jp nnn), Laws.EncodesRow.encodedAs (.jpV0 nnn), ?jp, ?jpV0⟩
  case jp => exact ⟨_, (Effect.jp nnn).exec_eq, zextAddr_toNat nnn, s.onlyChanges_setPc _⟩
  case jpV0 =>
    exact ⟨_, (Effect.jpV0 nnn).exec_eq, zextAddr_add_zextByte_toNat nnn (s.reg 0), s.onlyChanges_setPc _⟩

/-- Settles O36, by the two effects of a call: there is room on the stack or there is none. -/
theorem callPushesReturnAddress : Obligations.CallPushesReturnAddress := by
  intro nnn s
  refine ⟨Laws.EncodesRow.encodedAs (.call nnn), fun hroom => ?pushes, fun hfull => ?overflow⟩
  case pushes =>
    refine ⟨_, (Effect.call nnn hroom).exec_eq, ?slot, fun j hj => ?others, rfl, zextAddr_toNat nnn, ?frame⟩
    case slot => exact Vector.getElem_set_self hroom
    case others => exact Vector.getElem_set_ne hroom j.isLt hj.symm
    case frame =>
      exact (s.onlyChanges_stack (s.stack.set s.sp.val (s.pc + 2))).trans (State.onlyChanges_sp_pc _ _ _)
  case overflow => exact ⟨_, (Effect.callFull nnn hfull).exec_eq, s.faultEntry_raise _⟩

/-- Settles O37, by the two effects of a return: the stack holds an entry or it is empty. -/
theorem returnPopsIntoPc : Obligations.ReturnPopsIntoPc := by
  intro s
  refine ⟨Laws.EncodesRow.encodedAs .ret, fun j hj => ?pops, fun hempty => ?underflow⟩
  case pops =>
    have hslot : s.sp.val - 1 = j.val := by omega
    refine ⟨_, (Effect.ret (by omega)).exec_eq, hslot, ?pc, s.onlyChanges_sp_pc _ _⟩
    case pc => simp only [hslot, Fin.getElem_fin]
  case underflow => exact ⟨_, (Effect.retEmpty hempty).exec_eq, s.faultEntry_raise _⟩

/-- Settles O38: the return pops the slot the call pushed, at the `SP` before the call. -/
theorem returnUndoesCall : Obligations.ReturnUndoesCall := by
  intro nnn s t u hroom hcall hstack hsp
  obtain ⟨-, hpush, -⟩ := callPushesReturnAddress nnn s
  obtain ⟨t', hcall', hslot, -, hsp', -, -⟩ := hpush hroom
  obtain rfl : t' = t := Host.Outcome.next.inj (hcall'.symm.trans hcall)
  obtain ⟨-, hpop, -⟩ := returnPopsIntoPc u
  obtain ⟨r, hret, hrsp, hrpc, -⟩ := hpop ⟨s.sp.val, hroom⟩ (by rw [hsp, hsp'])
  refine ⟨r, hret, ?pc, Fin.ext hrsp⟩
  case pc =>
    calc
      r.pc = u.stack[s.sp.val] := hrpc
      _ = t'.stack[s.sp.val] := hstack ⟨s.sp.val, hroom⟩
      _ = s.pc + 2 := hslot

/-- Settles O39: each skip ends in `skipIf` of its comparison. -/
theorem registerSkips : Obligations.RegisterSkips := by
  intro x y kk s
  refine ⟨Laws.EncodesRow.encodedAs (.seKk x kk), Laws.EncodesRow.encodedAs (.sneKk x kk),
    Laws.EncodesRow.encodedAs (.seVy x y), Laws.EncodesRow.encodedAs (.sneVy x y), ?seKk, ?sneKk, ?seVy, ?sneVy⟩
  case seKk => exact (Effect.seKk x kk).skips beq_iff_eq.mpr beq_eq_false_iff_ne.mpr
  case sneKk => exact (Effect.sneKk x kk).skips bne_iff_ne.mpr bne_eq_false_iff_eq.mpr
  case seVy => exact (Effect.seVy x y).skips beq_iff_eq.mpr beq_eq_false_iff_ne.mpr
  case sneVy => exact (Effect.sneVy x y).skips bne_iff_ne.mpr bne_eq_false_iff_eq.mpr

end Sys2Proof.Machine

namespace Sys2Proof.Machine

/-! ### Results, flags and their frames (R160, R161) -/

section PutFlagged

variable (s : State) (x : Reg) (b : Byte) (f : Bool)

theorem State.reg_self_putResult : (s.putResult x b).reg x = b := by
  rw [State.reg_putResult, if_pos rfl]

theorem State.reg_self_putFlagged (hx : x ≠ VF) : (s.putFlagged x b f).reg x = b := by
  rw [State.reg_putFlagged, if_neg hx, if_pos rfl]

theorem State.reg_VF_putFlagged : (s.putFlagged x b f).reg VF = flagByte f := by
  rw [State.reg_putFlagged, if_pos rfl]

theorem State.regsExcept_putFlagged : RegsExcept [x, VF] s (s.putFlagged x b f) := by
  intro r hr
  obtain ⟨hx, hVF⟩ := List.ne_and_not_mem_of_not_mem_cons hr
  rw [State.reg_putFlagged, if_neg (List.ne_of_not_mem_cons hVF), if_neg hx]

theorem State.onlyChanges_putFlagged : OnlyChanges [.v, .pc] s (s.putFlagged x b f) := by
  intro p hp
  cases p <;> simp_all [State.same]

end PutFlagged

section Writes

variable {s : State} {i : Instr} {x : Reg} {b : Byte} {f : Bool} {P Q : Byte → Prop}

/-- An instruction that ends in `putResult` writes its result to `V[x]`, advances `PC` and changes nothing else. -/
theorem Effect.writesResult (h : Effect s i (s.putResult x b)) (hb : P b) :
    ∃ t, exec i s = .next t ∧ P (t.reg x) ∧ RegsExcept [x] s t ∧ t.pc = s.pc + 2 ∧ OnlyChanges [.v, .pc] s t := by
  refine ⟨_, h.exec_eq, ?result, s.regsExcept_putResult x b, rfl, s.onlyChanges_putResult x b⟩
  case result => rwa [State.reg_self_putResult]

/-- An instruction that ends in `putFlagged` writes its result to `V[x]`, which survives the flag where `x` is not F, then
its flag to VF (R161), advances `PC` and changes nothing else. -/
theorem Effect.writesFlagged (h : Effect s i (s.putFlagged x b f)) (hb : P b) (hf : Q (flagByte f)) :
    ∃ t, exec i s = .next t ∧ (x ≠ VF → P (t.reg x)) ∧ Q (t.reg VF) ∧
      RegsExcept [x, VF] s t ∧ t.pc = s.pc + 2 ∧ OnlyChanges [.v, .pc] s t := by
  refine ⟨_, h.exec_eq, fun hx => ?result, ?flag, s.regsExcept_putFlagged x b f, rfl, s.onlyChanges_putFlagged x b f⟩
  case result => rwa [State.reg_self_putFlagged _ _ _ _ hx]
  case flag => rwa [State.reg_VF_putFlagged]

/-- The same where the flag answers a test, given by the conditions `C` under which it holds and `D` under which it
fails. -/
theorem Effect.writesTested {C D : Prop} (h : Effect s i (s.putFlagged x b f)) (hb : P b)
    (hholds : C → f = true) (hfails : D → f = false) :
    ∃ t, exec i s = .next t ∧ (x ≠ VF → P (t.reg x)) ∧ (C → t.reg VF = 1) ∧ (D → t.reg VF = 0) ∧
      RegsExcept [x, VF] s t ∧ t.pc = s.pc + 2 ∧ OnlyChanges [.v, .pc] s t := by
  obtain ⟨t, hexec, hres, ⟨hone, hzero⟩, hframe⟩ :=
    h.writesFlagged (Q := fun v => (C → v = 1) ∧ (D → v = 0)) hb
      ⟨fun hC => congrArg flagByte (hholds hC), fun hD => congrArg flagByte (hfails hD)⟩
  exact ⟨t, hexec, hres, hone, hzero, hframe⟩

end Writes

/-! ### The operations on bytes as arithmetic (R168 to R172) -/

section Bytes

variable {a b : Byte}

theorem carry_eq_true (h : 255 < a.toNat + b.toNat) : carry a b = true := decide_eq_true h

theorem carry_eq_false (h : a.toNat + b.toNat ≤ 255) : carry a b = false := decide_eq_false (Nat.not_lt.mpr h)

theorem noBorrow_eq_true (h : b.toNat ≤ a.toNat) : noBorrow a b = true := decide_eq_true h

theorem noBorrow_eq_false (h : a.toNat < b.toNat) : noBorrow a b = false := decide_eq_false (Nat.not_le.mpr h)

/-- The minuend first, where `BitVec.toNat_sub` has the complement of the subtrahend first. -/
theorem byte_sub_toNat (a b : Byte) : (a - b).toNat = (a.toNat + 256 - b.toNat) % 256 := by
  rw [BitVec.toNat_sub]
  omega

theorem byte_shiftRight_one_toNat (a : Byte) : (a >>> 1).toNat = a.toNat / 2 := by
  rw [BitVec.toNat_ushiftRight, Nat.shiftRight_eq_div_pow, Nat.pow_one]

theorem byte_shiftLeft_one_toNat (a : Byte) : (a <<< 1).toNat = 2 * a.toNat % 256 := by
  rw [BitVec.toNat_shiftLeft, Nat.shiftLeft_eq, Nat.pow_one, Nat.mul_comm]

theorem flagByte_toNat (f : Bool) : (flagByte f).toNat = f.toNat := by
  cases f <;> rfl

theorem flagByte_lowBit_toNat (a : Byte) : (flagByte (lowBit a)).toNat = a.toNat % 2 := by
  rw [flagByte_toNat, lowBit, BitVec.getLsbD, Nat.toNat_testBit, Nat.pow_zero, Nat.div_one]

theorem flagByte_highBit_toNat (a : Byte) : (flagByte (highBit a)).toNat = a.toNat / 128 := by
  have hbit : (flagByte (highBit a)).toNat = a.toNat / 128 % 2 := by
    rw [flagByte_toNat, highBit, BitVec.getLsbD, Nat.toNat_testBit]
  omega

end Bytes

/-! ### The identities of R179, from a result and its flag -/

section Identities

variable {r f a b : Byte}

theorem sum_identity (hr : r.toNat = (a.toNat + b.toNat) % 256) (hone : 255 < a.toNat + b.toNat → f = 1)
    (hzero : a.toNat + b.toNat ≤ 255 → f = 0) : r.toNat + 256 * f.toNat = a.toNat + b.toNat := by
  rcases Nat.lt_or_ge 255 (a.toNat + b.toNat) with hcarry | hfits
  · have hf : f.toNat = 1 := congrArg BitVec.toNat (hone hcarry)
    omega
  · have hf : f.toNat = 0 := congrArg BitVec.toNat (hzero hfits)
    omega

theorem difference_identity (hr : r.toNat = (a.toNat + 256 - b.toNat) % 256) (hone : b.toNat ≤ a.toNat → f = 1)
    (hzero : a.toNat < b.toNat → f = 0) : (r.toNat : Int) = a.toNat - b.toNat + 256 * (1 - f.toNat) := by
  rcases Nat.lt_or_ge a.toNat b.toNat with hborrow | hge
  · have hf : f.toNat = 0 := congrArg BitVec.toNat (hzero hborrow)
    omega
  · have hf : f.toNat = 1 := congrArg BitVec.toNat (hone hge)
    omega

end Identities

/-! ### The statements -/

/-- Settles O40: each of the three ends in `putResult` of its result. -/
theorem loadsAndImmediateAdd : Obligations.LoadsAndImmediateAdd := by
  intro x y kk s
  refine ⟨Laws.EncodesRow.encodedAs (.ldKk x kk), Laws.EncodesRow.encodedAs (.addKk x kk),
    Laws.EncodesRow.encodedAs (.ldVy x y), ?ldKk, ?addKk, ?ldVy⟩
  case ldKk => exact (Effect.ldKk x kk).writesResult (P := (· = kk)) rfl
  case addKk =>
    exact (Effect.addKk x kk).writesResult (P := (·.toNat = ((s.reg x).toNat + kk.toNat) % 256)) (BitVec.toNat_add _ _)
  case ldVy => exact (Effect.ldVy x y).writesResult (P := (· = s.reg y)) rfl

/-- Settles O41: each of the three ends in `putResult` of its result, whose bits the library gives. -/
theorem logicOperations : Obligations.LogicOperations := by
  intro x y s
  refine ⟨Laws.EncodesRow.encodedAs (.orVy x y), Laws.EncodesRow.encodedAs (.andVy x y),
    Laws.EncodesRow.encodedAs (.xorVy x y), ?orVy, ?andVy, ?xorVy⟩
  case orVy =>
    exact (Effect.orVy x y).writesResult
      (P := fun r => ∀ j, r.getLsbD j = ((s.reg x).getLsbD j || (s.reg y).getLsbD j)) fun _ => BitVec.getLsbD_or
  case andVy =>
    exact (Effect.andVy x y).writesResult
      (P := fun r => ∀ j, r.getLsbD j = ((s.reg x).getLsbD j && (s.reg y).getLsbD j)) fun _ => BitVec.getLsbD_and
  case xorVy =>
    exact (Effect.xorVy x y).writesResult
      (P := fun r => ∀ j, r.getLsbD j = ((s.reg x).getLsbD j ^^ (s.reg y).getLsbD j)) fun _ => BitVec.getLsbD_xor

/-- Settles O42: the add ends in `putFlagged` of the sum and its carry. -/
theorem addSetsCarry : Obligations.AddSetsCarry := by
  intro x y s
  refine ⟨Laws.EncodesRow.encodedAs (.addVy x y), ?addVy⟩
  case addVy =>
    exact (Effect.addVy x y).writesTested (P := (·.toNat = ((s.reg x).toNat + (s.reg y).toNat) % 256))
      (BitVec.toNat_add _ _) carry_eq_true carry_eq_false

/-- Settles O43: both subtractions end in `putFlagged` of the difference and `noBorrow`, minuend first. -/
theorem subtractionsSetNoBorrow : Obligations.SubtractionsSetNoBorrow := by
  intro x y s
  refine ⟨Laws.EncodesRow.encodedAs (.sub x y), Laws.EncodesRow.encodedAs (.subn x y), ?sub, ?subn⟩
  case sub =>
    exact (Effect.sub x y).writesTested (P := (·.toNat = ((s.reg x).toNat + 256 - (s.reg y).toNat) % 256))
      (byte_sub_toNat _ _) noBorrow_eq_true noBorrow_eq_false
  case subn =>
    exact (Effect.subn x y).writesTested (P := (·.toNat = ((s.reg y).toNat + 256 - (s.reg x).toNat) % 256))
      (byte_sub_toNat _ _) noBorrow_eq_true noBorrow_eq_false

/-- Settles O44: both shifts end in `putFlagged` of `V[x]` shifted and the bit shifted out. -/
theorem shiftsByOne : Obligations.ShiftsByOne := by
  intro x y s
  refine ⟨Laws.EncodesRow.encodedAs (.shr x y), Laws.EncodesRow.encodedAs (.shl x y), ?shr, ?shl⟩
  case shr =>
    exact (Effect.shr x y).writesFlagged (P := (·.toNat = (s.reg x).toNat / 2)) (Q := (·.toNat = (s.reg x).toNat % 2))
      (byte_shiftRight_one_toNat _) (flagByte_lowBit_toNat _)
  case shl =>
    exact (Effect.shl x y).writesFlagged (P := (·.toNat = 2 * (s.reg x).toNat % 256))
      (Q := (·.toNat = (s.reg x).toNat / 128)) (byte_shiftLeft_one_toNat _) (flagByte_highBit_toNat _)

/-- Settles O45, from the results and flags that O42 to O44 give, as R179 infers it from R168 to R172. -/
theorem arithmeticIdentities : Obligations.ArithmeticIdentities := by
  intro x y s t hx
  obtain ⟨-, -, hsub, hsubn⟩ := subtractionsSetNoBorrow x y s
  obtain ⟨-, -, hshr, hshl⟩ := shiftsByOne x y s
  refine ⟨fun h => ?addVy, fun h => ?sub, fun h => ?subn, fun h => ?shr, fun h => ?shl⟩
  case addVy =>
    obtain ⟨-, u, hu, hres, hone, hzero, -⟩ := addSetsCarry x y s
    obtain rfl : u = t := Host.Outcome.next.inj (hu.symm.trans h)
    exact sum_identity (hres hx) hone hzero
  case sub =>
    obtain ⟨u, hu, hres, hone, hzero, -⟩ := hsub
    obtain rfl : u = t := Host.Outcome.next.inj (hu.symm.trans h)
    exact difference_identity (hres hx) hone hzero
  case subn =>
    obtain ⟨u, hu, hres, hone, hzero, -⟩ := hsubn
    obtain rfl : u = t := Host.Outcome.next.inj (hu.symm.trans h)
    exact difference_identity (hres hx) hone hzero
  case shr =>
    obtain ⟨u, hu, hres, hflag, -⟩ := hshr
    obtain rfl : u = t := Host.Outcome.next.inj (hu.symm.trans h)
    have hhalf := hres hx
    omega
  case shl =>
    obtain ⟨u, hu, hres, hflag, -⟩ := hshl
    obtain rfl : u = t := Host.Outcome.next.inj (hu.symm.trans h)
    have hdouble := hres hx
    omega

end Sys2Proof.Machine

namespace Sys2Proof.Machine

/-! ### Frames of the accesses through `I` -/

section Frames

variable (s : State)

theorem State.onlyChanges_advance : OnlyChanges [.pc] s s.advance := s.onlyChanges_setPc _

theorem State.onlyChanges_setI (a : Word) : OnlyChanges [.i] s (s.setI a) := by
  intro p hp
  cases p <;> simp_all [State.same]

theorem State.onlyChanges_storeBytes (a : Nat) (bs : List Byte) : OnlyChanges [.mem] s (s.storeBytes a bs) := by
  intro p hp
  cases p <;> simp_all [State.same]

theorem State.onlyChanges_loadRegs (bs : List Byte) : OnlyChanges [.v] s (s.loadRegs bs) := by
  intro p hp
  cases p <;> simp_all [State.same, State.readByte, State.key, State.pixel]

theorem State.bytesOutside_storeBytes (a : Nat) {bs : List Byte} {n : Nat} (hlen : bs.length = n) :
    BytesOutside a n s (s.storeBytes a bs) :=
  fun _ hb => State.readByte_storeBytes_outside (by omega)

end Frames

/-! ### Values of `I` (R191 to R193, R197) -/

/-- The sum fits 16 bits: a digit is at most 15. -/
theorem glyphAddr_toNat (d : Fin 16) : (glyphAddr d).toNat = 0x050 + 5 * d.val := by
  rw [glyphAddr, BitVec.toNat_ofNat]
  omega

/-- `I` stays, takes a 12-bit address or a glyph's, or the instruction is an Fx1E (R191 to R193). -/
theorem Effect.i_cases {s t : State} {i : Instr} (h : Effect s i t) :
    t.i = s.i ∨ (∃ nnn, t.i = zextAddr nnn) ∨ (∃ d, t.i = glyphAddr d) ∨ ∃ x, i = .addI x := by
  cases h
  case ldI nnn => exact .inr (.inl ⟨nnn, rfl⟩)
  case ldF x => exact .inr (.inr (.inl ⟨_, rfl⟩))
  case addI x => exact .inr (.inr (.inr ⟨x, rfl⟩))
  all_goals exact .inl (by simp)

/-! ### Bytes stored and registers loaded -/

section Bytes

variable (s : State) (a : Nat)

/-- The digits stored from `a` up, hundreds first (R194). -/
theorem State.readByte_storeBytes_bcdDigits (b : Byte) :
    ((s.storeBytes a (bcdDigits b)).readByte a).toNat = b.toNat / 100 ∧
    ((s.storeBytes a (bcdDigits b)).readByte (a + 1)).toNat = b.toNat / 10 % 10 ∧
    ((s.storeBytes a (bcdDigits b)).readByte (a + 2)).toNat = b.toNat % 10 := by
  have hdigit (k : Fin 3) {d : Nat} (hd : (bcdDigits b)[k] = BitVec.ofNat 8 d) (hlt : d < 256) :
      ((s.storeBytes a (bcdDigits b)).readByte (a + k.val)).toNat = d := by
    rw [State.readByte_storeBytes_inside (bs := bcdDigits b) k.isLt]
    exact (congrArg BitVec.toNat hd).trans (Nat.mod_eq_of_lt hlt)
  exact ⟨hdigit 0 rfl (by omega), hdigit 1 rfl (by omega), hdigit 2 rfl (by omega)⟩

/-! The registers up to `x` are loaded, those above keep their values (R196). -/

variable {r x : Reg}

theorem State.reg_loadRegs_readBytes_of_le (hr : r ≤ x) :
    (s.loadRegs (s.readBytes a (x.val + 1))).reg r = s.readByte (a + r.val) := by
  have hlen : r.val < (s.readBytes a (x.val + 1)).length := by
    rw [State.length_readBytes]
    exact Nat.lt_succ_of_le hr
  rw [State.reg_loadRegs, List.getD_eq_getElem _ _ hlen, State.getElem_readBytes hlen]

theorem State.reg_loadRegs_readBytes_of_lt (hr : x < r) :
    (s.loadRegs (s.readBytes a (x.val + 1))).reg r = s.reg r := by
  have hlen : (s.readBytes a (x.val + 1)).length ≤ r.val := by
    rw [State.length_readBytes]
    exact hr
  rw [State.reg_loadRegs, List.getD_eq_default _ _ hlen]

end Bytes

/-! ### What instructions of one ending share -/

section Endings

variable {s : State} {i : Instr}

/-- An instruction that ends in `setI` writes its value to `I`, advances `PC` and changes nothing else. -/
theorem Effect.writesIndex {a : Word} {n : Nat} (h : Effect s i (s.setI a).advance) (ha : a.toNat = n) :
    ∃ t, exec i s = .next t ∧ t.i.toNat = n ∧ t.pc = s.pc + 2 ∧ OnlyChanges [.i, .pc] s t :=
  ⟨_, h.exec_eq, ha, rfl, (s.onlyChanges_setI a).trans (State.onlyChanges_advance _)⟩

/-- An instruction that ends in `storeBytes` stores its bytes, advances `PC` and changes nothing else. -/
theorem Effect.writesBytes {a n : Nat} {bs : List Byte} (h : Effect s i (s.storeBytes a bs).advance)
    (hlen : bs.length = n) :
    ∃ t, exec i s = .next t ∧ (∀ b, t.readByte b = (s.storeBytes a bs).readByte b) ∧
      BytesOutside a n s t ∧ t.pc = s.pc + 2 ∧ OnlyChanges [.mem, .pc] s t :=
  ⟨_, h.exec_eq, State.readByte_advance _, s.bytesOutside_storeBytes a hlen, rfl,
    (s.onlyChanges_storeBytes a bs).trans (State.onlyChanges_advance _)⟩

/-- An instruction that ends in `loadRegs` loads its bytes, advances `PC` and changes nothing else. -/
theorem Effect.loadsBytes {bs : List Byte} (h : Effect s i (s.loadRegs bs).advance) :
    ∃ t, exec i s = .next t ∧ (∀ r, t.reg r = (s.loadRegs bs).reg r) ∧ t.pc = s.pc + 2 ∧
      OnlyChanges [.v, .pc] s t :=
  ⟨_, h.exec_eq, State.reg_advance _, by rw [State.advance_pc, State.loadRegs_pc],
    (s.onlyChanges_loadRegs bs).trans (State.onlyChanges_advance _)⟩

theorem Effect.faults {c : Cause} (h : Effect s i (s.raise c)) : ∃ t, exec i s = .next t ∧ FaultEntry c s t :=
  ⟨_, h.exec_eq, s.faultEntry_raise c⟩

end Endings

/-! ### The statements -/

/-- Settles O30: of the values an instruction gives `I`, only an Fx1E's can pass 0xFFF. -/
theorem indexPassesTopByAddOnly : Obligations.IndexPassesTopByAddOnly := by
  intro i s t h hs ht
  obtain hkept | ⟨nnn, haddr⟩ | ⟨d, hglyph⟩ | hadd := (exec_effect h).i_cases
  · rw [hkept] at ht
    omega
  · rw [haddr, zextAddr_toNat] at ht
    omega
  · rw [hglyph, glyphAddr_toNat] at ht
    omega
  · exact hadd

/-- Settles O47: each of the three ends in `setI` of its value. -/
theorem indexRegisterWrites : Obligations.IndexRegisterWrites := by
  intro nnn x s
  refine ⟨Laws.EncodesRow.encodedAs (.ldI nnn), Laws.EncodesRow.encodedAs (.addI x),
    Laws.EncodesRow.encodedAs (.ldF x), ?ldI, ?addI, ?ldF⟩
  case ldI => exact (Effect.ldI nnn).writesIndex (zextAddr_toNat nnn)
  case addI => exact (Effect.addI x).writesIndex (by rw [BitVec.toNat_add, zextByte_toNat])
  case ldF => exact (Effect.ldF x).writesIndex (by rw [glyphAddr_toNat, lowNibble_val])

/-- Settles O48, by the three effects of Fx33: the digits stored, or one of the two faults. -/
theorem storeDecimalDigits : Obligations.StoreDecimalDigits := by
  intro x s
  refine ⟨Laws.EncodesRow.encodedAs (.ldB x), fun hlow hhigh => ?stores, fun htop => (Effect.ldBBounds x htop).faults,
    fun hlow => (Effect.ldBProtect x hlow).faults⟩
  case stores =>
    obtain ⟨t, hexec, hread, hframe⟩ := (Effect.ldB x hhigh hlow).writesBytes (length_bcdDigits _)
    obtain ⟨hhundreds, htens, hones⟩ := s.readByte_storeBytes_bcdDigits s.base (s.reg x)
    rw [← hread] at hhundreds htens hones
    exact ⟨t, hexec, hhundreds, htens, hones, hframe⟩

/-- Settles O49, by the three effects of Fx55: the registers stored, or one of the two faults. -/
theorem storeRegisters : Obligations.StoreRegisters := by
  intro x s
  refine ⟨Laws.EncodesRow.encodedAs (.ldMemVx x), fun hlow hhigh => ?stores,
    fun htop => (Effect.ldMemVxBounds x htop).faults, fun hlow => (Effect.ldMemVxProtect x hlow).faults⟩
  case stores =>
    obtain ⟨t, hexec, hread, hframe⟩ := (Effect.ldMemVx x hhigh hlow).writesBytes (State.length_regsUpTo x)
    exact ⟨t, hexec, fun r hr => (hread _).trans (s.readByte_storeBytes_regsUpTo s.base hr), hframe⟩

/-- Settles O50, by the two effects of Fx65: the registers loaded, or the fault. -/
theorem loadRegisters : Obligations.LoadRegisters := by
  intro x s
  refine ⟨Laws.EncodesRow.encodedAs (.ldVxMem x), fun hhigh => ?loads,
    fun htop => (Effect.ldVxMemBounds x htop).faults⟩
  case loads =>
    obtain ⟨t, hexec, hreg, hframe⟩ := (Effect.ldVxMem x hhigh).loadsBytes
    exact ⟨t, hexec, fun r hr => (hreg r).trans (s.reg_loadRegs_readBytes_of_le s.base hr),
      fun r hr => (hreg r).trans (s.reg_loadRegs_readBytes_of_lt s.base hr), hframe⟩

/-- Settles O51: what Fx65 loads by O50 is what Fx55 stored by O49. -/
theorem storeThenLoadRestores : Obligations.StoreThenLoadRestores := by
  intro x s t u hlow hhigh hstore hmem hi
  have hbase : u.base = s.base := congrArg BitVec.toNat hi
  obtain ⟨-, hstores, -⟩ := storeRegisters x s
  obtain ⟨t', hstore', hbytes, -⟩ := hstores hlow hhigh
  obtain rfl : t' = t := Host.Outcome.next.inj (hstore'.symm.trans hstore)
  obtain ⟨-, hloads, -⟩ := loadRegisters x u
  obtain ⟨w, hload, hregs, -⟩ := hloads (hbase ▸ hhigh)
  refine ⟨w, hload, fun r hr => ?_⟩
  calc
    w.reg r = u.readByte (u.base + r.val) := hregs r hr
    _ = t'.readByte (s.base + r.val) := by rw [hbase]; exact hmem _
    _ = s.reg r := hbytes r hr

end Sys2Proof.Machine

namespace Sys2Proof.Machine

/-! ### A write to the screen, and the frame of a draw (R34, R213) -/

theorem pixel_blankScreen (r : Fin 32) (c : Fin 64) : blankScreen[r][c] = false := by
  simp [blankScreen]

section Frames

variable (s : State)

theorem State.onlyChanges_setScreen (fb : Screen) : OnlyChanges [.fb, .dirty] s (s.setScreen fb) := by
  intro p hp
  cases p <;> simp_all [State.same]

/-- Showing a canvas is a screen write, then the collision flag as a result in VF. -/
theorem State.showCanvas_eq_putResult (cv : Canvas) :
    s.showCanvas cv = (s.setScreen cv.fb).putResult VF (flagByte cv.coll) := rfl

theorem State.onlyChanges_showCanvas (cv : Canvas) : OnlyChanges [.fb, .dirty, .v, .pc] s (s.showCanvas cv) :=
  s.showCanvas_eq_putResult cv ▸ (s.onlyChanges_setScreen cv.fb).trans (State.onlyChanges_putResult _ VF _)

theorem State.regsExcept_showCanvas (cv : Canvas) : RegsExcept [VF] s (s.showCanvas cv) :=
  (s.setScreen cv.fb).regsExcept_putResult VF (flagByte cv.coll)

theorem State.reg_VF_showCanvas (cv : Canvas) : (s.showCanvas cv).reg VF = flagByte cv.coll := by
  rw [State.reg_showCanvas, if_pos rfl]

end Frames

/-! ### The cells a sprite covers (R212, R213) -/

section Covers

variable {s s' : State} {x y : Reg} {n : Nat}

/-- A draw of at most 15 rows at `I` inverts the cells `SpriteCovers` describes, each once (R214). -/
theorem State.inverts_drawSprite (hn : n ≤ 15) :
    Canvas.Inverts ⟨s.fb, false⟩ (s.drawSprite x y (s.readBytes s.base n)) (SpriteCovers s x y n) := by
  refine Canvas.inverts_congr (Canvas.inverts_drawRows s.straps _ _ _ _ (by rwa [State.length_readBytes])) fun r c => ?_
  constructor
  · rintro ⟨k, j, hk, hj, hbit, hrow, hcol⟩
    rw [State.getElem_readBytes] at hbit
    exact ⟨k, j, hk.trans_eq State.length_readBytes, hj, hbit, hcol, hrow⟩
  · rintro ⟨k, j, hk, hj, hbit, hcol, hrow⟩
    refine ⟨k, j, hk.trans_eq State.length_readBytes.symm, hj, ?_, hrow, hcol⟩
    rw [State.getElem_readBytes]
    exact hbit

/-- A draw collides if and only if it covers a cell that is 1. -/
theorem State.drawSprite_coll (hn : n ≤ 15) : (s.drawSprite x y (s.readBytes s.base n)).coll = true ↔
    ∃ r c, SpriteCovers s x y n r c ∧ s.pixel r c = true := by
  obtain ⟨-, hcoll⟩ := State.inverts_drawSprite hn
  rw [hcoll, or_iff_right Bool.false_ne_true]
  rfl

/-- Straps, coordinates, `I` and the sprite's bytes determine which cells are covered. -/
theorem spriteCovers_congr (hstraps : s'.straps = s.straps) (hx : s'.reg x = s.reg x) (hy : s'.reg y = s.reg y)
    (hi : s'.i = s.i) (hrows : ∀ k, k < n → s'.readByte (s.base + k) = s.readByte (s.base + k))
    (r : Fin 32) (c : Fin 64) : SpriteCovers s' x y n r c ↔ SpriteCovers s x y n r c := by
  have hbase : s'.base = s.base := congrArg BitVec.toNat hi
  unfold SpriteCovers
  rw [hbase, hstraps, hx, hy]
  refine exists_congr fun k => exists_congr fun j => and_congr_right fun hk => ?_
  rw [hrows k hk]

end Covers

/-! ### The statements -/

/-- Settles O52: 00E0 ends in `setScreen` of the blank screen, then `advance`. -/
theorem clearScreen : Obligations.ClearScreen := by
  intro s
  exact ⟨Laws.EncodesRow.encodedAs .cls, _, Effect.cls.exec_eq, pixel_blankScreen, rfl, rfl,
    (s.onlyChanges_setScreen blankScreen).trans (State.onlyChanges_advance _)⟩

/-- Settles O53, by the two effects of Dxyn: the canvas drawn on is shown, or the fault. -/
theorem drawSprite : Obligations.DrawSprite := by
  intro x y n s hn
  refine ⟨Laws.EncodesRow.encodedAs (.drw x y n), fun hfits => ?draws,
    fun hpos htop => (Effect.drwBounds x y n hpos htop).faults⟩
  case draws =>
    obtain ⟨hcells, -⟩ := State.inverts_drawSprite (s := s) (x := x) (y := y) hn
    refine ⟨_, (Effect.drw x y n hfits).exec_eq, hcells, fun hhit => ?hit, fun hmiss => ?miss, rfl,
      s.regsExcept_showCanvas _, rfl, s.onlyChanges_showCanvas _⟩
    case hit =>
      rw [State.reg_VF_showCanvas, (State.drawSprite_coll hn).mpr hhit]
      rfl
    case miss =>
      have hcoll : (s.drawSprite x y (s.readBytes s.base n)).coll = false := by
        rw [← Bool.not_eq_true, State.drawSprite_coll hn]
        rintro ⟨r, c, hcov, hset⟩
        exact Bool.false_ne_true ((hmiss r c hcov).symm.trans hset)
      rw [State.reg_VF_showCanvas, hcoll]
      rfl

/-- Settles O54, from O53 for both draws: they cover the same cells, and a cell inverted twice is as before. -/
theorem drawTwiceRestores : Obligations.DrawTwiceRestores := by
  intro x y n s t s' hn hbounds hfirst hfb hi hstraps hx hy hrows
  have hbase : s'.base = s.base := congrArg BitVec.toNat hi
  have hcov := spriteCovers_congr hstraps hx hy hi hrows
  obtain ⟨-, hdraw, -⟩ := drawSprite x y n s hn
  obtain ⟨u, hu, hcells, -, hmiss, -⟩ := hdraw hbounds
  obtain rfl : u = t := Host.Outcome.next.inj (hu.symm.trans hfirst)
  obtain ⟨-, hdraw', -⟩ := drawSprite x y n s' hn
  obtain ⟨t', hsecond, hcells', hhit', hmiss', -⟩ := hdraw' (hbase ▸ hbounds)
  simp only [hcov] at hcells' hhit' hmiss'
  refine ⟨t', hsecond, fun r c => ?restores,
    fun hclear => ⟨hmiss hclear, fun ⟨r, c, hrc⟩ => hhit' ⟨r, c, hrc, ?set⟩⟩,
    fun hnone => ⟨hmiss fun r c hrc => absurd hrc (hnone r c), hmiss' fun r c hrc => absurd hrc (hnone r c)⟩⟩
  case restores =>
    by_cases hrc : SpriteCovers s x y n r c
    · calc
        t'.pixel r c = !s'.pixel r c := (hcells' r c).1 hrc
        _ = !!s.pixel r c := by rw [hfb r c, (hcells r c).1 hrc]
        _ = s.pixel r c := Bool.not_not _
    · calc
        t'.pixel r c = s'.pixel r c := (hcells' r c).2 hrc
        _ = s.pixel r c := (hfb r c).trans ((hcells r c).2 hrc)
  case set =>
    rw [hfb r c, (hcells r c).1 hrc, hclear r c hrc]
    rfl

end Sys2Proof.Machine

namespace Sys2Proof.Machine

/-! ### Frames of the timer writes and of the wait (R236, R239, R240) -/

section Frames

variable (s : State)

theorem State.onlyChanges_setDt (b : Byte) : OnlyChanges [.dt] s (s.setDt b) := by
  intro p hp
  cases p <;> simp_all [State.same]

theorem State.onlyChanges_setSt (b : Byte) : OnlyChanges [.st] s (s.setSt b) := by
  intro p hp
  cases p <;> simp_all [State.same]

theorem State.onlyChanges_beginWait (x : Reg) : OnlyChanges [.waitX, .es] s (s.beginWait x) := by
  intro p hp
  cases p <;> simp_all [State.same]

end Frames

/-! ### The key tested, and the tick of an instruction's own step -/

/-- R230 gives the tested key by a number; the model takes four bits of the register. -/
theorem eq_lowNibble {b : Byte} {k : Fin 16} (hk : k.val = b.toNat % 16) : k = lowNibble b :=
  Fin.ext (hk.trans (lowNibble_val b).symm)

/-- A step whose execute phase leaves the engine running is that phase, then the timer tick (R126, R130). -/
theorem step_ticks {s u : State} {i : Instr} (hi : s.executes i) (h : Effect ((s.emit none).setEs .running) i u)
    (hrun : u.es = .running) : step s = .next u.tick := by
  have hne : u.es ≠ .halted := by
    rw [hrun]
    nofun
  rw [step_fetches hi.1, execWord_ok hi.2 h.exec_eq, State.finish_other hne]

/-! ### The statements -/

/-- Settles O55: both skips end in `skipIf` of the key numbered by the low nibble, ExA1 of its negation. -/
theorem keySkips : Obligations.KeySkips := by
  intro x k s hk
  obtain rfl := eq_lowNibble hk
  refine ⟨Laws.EncodesRow.encodedAs (.skp x), Laws.EncodesRow.encodedAs (.sknp x), ?skp, ?sknp⟩
  case skp => exact (Effect.skp x).skips id id
  case sknp => exact (Effect.sknp x).skips (congrArg not) (congrArg not)

/-- Settles O56, by the two effects of Fx0A: the smallest pressed key is taken, or none is pressed. -/
theorem waitForKey : Obligations.WaitForKey := by
  intro x s
  refine ⟨Laws.EncodesRow.encodedAs (.ldVxK x), fun k hk hmin => ?pressed, fun hno => ?none⟩
  case pressed =>
    have hkey : s.pressedKey = some k := State.pressedKey_some.mpr ⟨hk, hmin⟩
    exact (Effect.ldVxK x k hkey).writesResult (P := (·.toNat = k.val)) (keyByte_toNat k)
  case none =>
    have hkey : s.pressedKey = none := State.pressedKey_none.mpr hno
    exact ⟨_, (Effect.ldVxKWait x hkey).exec_eq, rfl, rfl, s.onlyChanges_beginWait x⟩

/-- Settles O57: each execute phase is one write, then `advance`; the tick of the same step counts down what it left. -/
theorem timerRegisters : Obligations.TimerRegisters := by
  intro x s
  refine ⟨Laws.EncodesRow.encodedAs (.ldVxDt x), Laws.EncodesRow.encodedAs (.ldDtVx x),
    Laws.EncodesRow.encodedAs (.ldStVx x), ?ldVxDt, ?ldDtVx, ?ldStVx, fun hi => ?stepVxDt, fun hi => ?stepDtVx,
    fun hi => ?stepStVx⟩
  case ldVxDt => exact (Effect.ldVxDt x).writesResult (P := (· = s.dt)) rfl
  case ldDtVx =>
    exact ⟨_, (Effect.ldDtVx x).exec_eq, rfl, rfl, (s.onlyChanges_setDt _).trans (State.onlyChanges_advance _)⟩
  case ldStVx =>
    exact ⟨_, (Effect.ldStVx x).exec_eq, rfl, rfl, (s.onlyChanges_setSt _).trans (State.onlyChanges_advance _)⟩
  case stepVxDt =>
    exact ⟨_, step_ticks hi (Effect.ldVxDt x) rfl, State.reg_self_putResult _ _ _, countDown_toNat _⟩
  case stepDtVx => exact ⟨_, step_ticks hi (Effect.ldDtVx x) rfl, countDown_toNat _⟩
  case stepStVx => exact ⟨_, step_ticks hi (Effect.ldStVx x) rfl, countDown_toNat _⟩

end Sys2Proof.Machine

namespace Sys2Proof.Machine

/-! ### The host operations (R270, R271, R290 to R294) -/

section HostOperations

variable {s t : State}

theorem State.key_setKey (s : State) (k j : Fin 16) (b : Bool) :
    (s.setKey k b).key j = if k = j then b else s.key j := by
  simp [State.key, State.setKey, Vector.getElem_set, Fin.ext_iff]

theorem State.onlyChanges_setKey (s : State) (k : Fin 16) (b : Bool) : OnlyChanges [.keys] s (s.setKey k b) := by
  intro p hp
  cases p <;> simp_all [State.same, State.setKey, State.readByte, State.reg, State.pixel]

theorem State.onlyChanges_clearDirty (s : State) : OnlyChanges [.dirty] s s.clearDirty := by
  intro p hp
  cases p <;> simp_all [State.same, State.clearDirty, State.readByte, State.reg, State.key, State.pixel]

/-- A load that answers is one in `Ready`: it stored the program, or the program was too long and nothing changed. -/
theorem State.loadProgram_cases {bytes : List Byte} {r : LoadResult} (h : s.loadProgram bytes = .next (t, r)) :
    s.es = .ready ∧
      ((bytes.length ≤ maxRom ∧ r = .success ∧
          t = { s.storeBytes 0x200 bytes with progEnd := BitVec.ofNat 16 (0x200 + bytes.length) }) ∨
        (maxRom < bytes.length ∧ r = .tooLong ∧ t = s)) := by
  unfold State.loadProgram at h
  cases hes : s.es
  case ready =>
    rw [hes] at h
    refine ⟨rfl, ?_⟩
    by_cases hfit : bytes.length ≤ maxRom
    · simp only [if_pos hfit] at h
      cases h
      exact .inl ⟨hfit, rfl, rfl⟩
    · simp only [if_neg hfit] at h
      cases h
      exact .inr ⟨Nat.lt_of_not_le hfit, rfl, rfl⟩
  all_goals
    rw [hes] at h
    cases h

/-- The invariant does not speak of the counter of draws, which `reset` alone leaves as it is. -/
theorem sound_hostReset (s : State) : Sound s.hostReset := { sound_resetWith s.straps with }

theorem Sound.setKey (hs : Sound s) (k : Fin 16) (b : Bool) : Sound (s.setKey k b) := { hs with }

theorem Sound.clearDirty (hs : Sound s) : Sound s.clearDirty := { hs with }

/-- A program of at most `MAX_ROM` bytes ends at 0x1000 at the latest, so its load stays inside memory and above the
reserved region (R38, R292). -/
theorem Sound.loadProgram (hs : Sound s) {bytes : List Byte} {r : LoadResult}
    (h : s.loadProgram bytes = .next (t, r)) : Sound t := by
  obtain ⟨hes, ⟨hfit, -, rfl⟩ | ⟨-, -, rfl⟩⟩ := State.loadProgram_cases h
  case inr => exact hs
  have hend : 0x200 + bytes.length ≤ 0x1000 := Nat.add_le_add_left hfit 0x200
  have hprog : (BitVec.ofNat 16 (0x200 + bytes.length)).toNat = 0x200 + bytes.length :=
    Nat.mod_eq_of_lt (by omega)
  exact { hs with
    memCanonical := Memory.wf_writeBytes hs.memCanonical hend
    reservedKept := fun c hc => (Memory.mem_writeBytes hc).elim id (hs.reservedKept c)
    progEndRange := by rw [hprog]; omega
    waiting := fun hwait => nomatch hes.symm.trans hwait }

end HostOperations

/-! ### Which instruction raises which fault (R251 to R254) -/

section Faults

variable {s t u : State} {i : Instr} {c : Cause}

/-- `Raises s i c`: executing `i` in `s` meets the condition under which its rule raises `c`. -/
inductive Raises (s : State) : Instr → Cause → Prop where
  | ret (h : s.sp.val = 0) : Raises s .ret .stackUnderflow
  | call (nnn : Addr) (h : s.sp.val = 16) : Raises s (.call nnn) .stackOverflow
  | drw (x y : Reg) (n : Nat) (h0 : 0 < n) (h : 0xFFF < s.base + n - 1) : Raises s (.drw x y n) .memBounds
  | ldBBounds (x : Reg) (h : 0xFFF < s.base + 2) : Raises s (.ldB x) .memBounds
  | ldMemVxBounds (x : Reg) (h : 0xFFF < s.base + x.val) : Raises s (.ldMemVx x) .memBounds
  | ldVxMemBounds (x : Reg) (h : 0xFFF < s.base + x.val) : Raises s (.ldVxMem x) .memBounds
  | ldBProtect (x : Reg) (h : s.base < 0x200) : Raises s (.ldB x) .storeProtect
  | ldMemVxProtect (x : Reg) (h : s.base < 0x200) : Raises s (.ldMemVx x) .storeProtect

/-- Under its condition an instruction has the fault entry as an effect. -/
theorem Raises.effect (h : Raises s i c) : Effect s i (s.raise c) := by
  cases h
  case ret h => exact .retEmpty h
  case call nnn h => exact .callFull nnn h
  case drw x y n h0 h => exact .drwBounds x y n h0 h
  case ldBBounds x h => exact .ldBBounds x h
  case ldMemVxBounds x h => exact .ldMemVxBounds x h
  case ldVxMemBounds x h => exact .ldVxMemBounds x h
  case ldBProtect x h => exact .ldBProtect x h
  case ldMemVxProtect x h => exact .ldMemVxProtect x h

/-- An instruction raises a fault under its condition, or leaves `FAULT` as it is. -/
theorem Effect.raises_or_keeps_fault (h : Effect s i t) : (∃ c, t = s.raise c ∧ Raises s i c) ∨ t.fault = s.fault := by
  cases h
  case retEmpty h => exact .inl ⟨_, rfl, .ret h⟩
  case callFull nnn h => exact .inl ⟨_, rfl, .call nnn h⟩
  case drwBounds x y n h0 h => exact .inl ⟨_, rfl, .drw x y n h0 h⟩
  case ldBBounds x h => exact .inl ⟨_, rfl, .ldBBounds x h⟩
  case ldMemVxBounds x h => exact .inl ⟨_, rfl, .ldMemVxBounds x h⟩
  case ldVxMemBounds x h => exact .inl ⟨_, rfl, .ldVxMemBounds x h⟩
  case ldBProtect x h => exact .inl ⟨_, rfl, .ldBProtect x h⟩
  case ldMemVxProtect x h => exact .inl ⟨_, rfl, .ldMemVxProtect x h⟩
  all_goals exact .inr (by simp)

/-- An instruction has one effect: the answer of `exec`. -/
theorem Effect.unique (h : Effect s i t) (h' : Effect s i u) : t = u :=
  Host.Outcome.next.inj (h.exec_eq.symm.trans h'.exec_eq)

/-- From `FAULT = None` an instruction ends with a cause on record exactly under the condition that raises it. -/
theorem Effect.fault_iff_raises (h : Effect s i t) (hf : s.fault = .none) (c : Cause) (hc : c ≠ .none) :
    t.fault = c ↔ Raises s i c := by
  constructor
  · rintro rfl
    obtain ⟨c, rfl, hr⟩ | hkept := h.raises_or_keeps_fault
    · exact hr
    · exact absurd (hkept.trans hf) hc
  · intro hr
    rw [h.unique hr.effect]
    rfl

/-- From `FAULT = None` an instruction that ends with a cause on record ended in the fault entry. -/
theorem Effect.faultEntry (h : Effect s i t) (hf : s.fault = .none) (ht : t.fault ≠ .none) :
    FaultEntry t.fault s t := by
  obtain ⟨c, rfl, -⟩ | hkept := h.raises_or_keeps_fault
  · exact s.faultEntry_raise c
  · exact absurd (hkept.trans hf) ht

theorem raises_stackUnderflow_iff : Raises s i .stackUnderflow ↔ i = .ret ∧ s.sp.val = 0 := by
  constructor
  · intro h
    cases h with
    | ret h => exact ⟨rfl, h⟩
  · rintro ⟨rfl, h⟩
    exact .ret h

theorem raises_stackOverflow_iff : Raises s i .stackOverflow ↔ (∃ nnn, i = .call nnn) ∧ s.sp.val = 16 := by
  constructor
  · intro h
    cases h with
    | call nnn h => exact ⟨⟨nnn, rfl⟩, h⟩
  · rintro ⟨⟨nnn, rfl⟩, h⟩
    exact .call nnn h

theorem raises_memBounds_iff : Raises s i .memBounds ↔
    (∃ x y n, i = .drw x y n ∧ 0 < n ∧ 0xFFF < s.base + n - 1) ∨
    (∃ x, i = .ldB x ∧ 0xFFF < s.base + 2) ∨
    (∃ x, (i = .ldMemVx x ∨ i = .ldVxMem x) ∧ 0xFFF < s.base + x.val) := by
  constructor
  · intro h
    cases h
    case drw x y n h0 h => exact .inl ⟨x, y, n, rfl, h0, h⟩
    case ldBBounds x h => exact .inr (.inl ⟨x, rfl, h⟩)
    case ldMemVxBounds x h => exact .inr (.inr ⟨x, .inl rfl, h⟩)
    case ldVxMemBounds x h => exact .inr (.inr ⟨x, .inr rfl, h⟩)
  · rintro (⟨x, y, n, rfl, h0, h⟩ | ⟨x, rfl, h⟩ | ⟨x, rfl | rfl, h⟩)
    · exact .drw x y n h0 h
    · exact .ldBBounds x h
    · exact .ldMemVxBounds x h
    · exact .ldVxMemBounds x h

theorem raises_storeProtect_iff :
    Raises s i .storeProtect ↔ (∃ x, i = .ldB x ∨ i = .ldMemVx x) ∧ s.base < 0x200 := by
  constructor
  · intro h
    cases h
    case ldBProtect x h => exact ⟨⟨x, .inl rfl⟩, h⟩
    case ldMemVxProtect x h => exact ⟨⟨x, .inr rfl⟩, h⟩
  · rintro ⟨⟨x, rfl | rfl⟩, h⟩
    · exact .ldBProtect x h
    · exact .ldMemVxProtect x h

end Faults

/-! ### The statements -/

/-- Settles O3: each host operation keeps the invariant by a lemma of its own; `reset` needs nothing of the state before. -/
theorem hostOperationsKeepSound : Obligations.HostOperationsKeepSound :=
  fun s hs => ⟨sound_hostReset s, hs.setKey, hs.clearDirty, fun _ _ _ h => hs.loadProgram h⟩

/-- Settles O20: `Raises` lists the conditions, and an instruction ends in the entry of what it raises. -/
theorem faultCausesByInstruction : Obligations.FaultCausesByInstruction := by
  refine ⟨by decide, fun i s hf => ?instruction, fun s hes hlt hb => ?fetch⟩
  case instruction =>
    obtain ⟨t, h⟩ := effect_exists i s
    exact ⟨t, h.exec_eq,
      (h.fault_iff_raises hf .stackUnderflow nofun).trans raises_stackUnderflow_iff,
      (h.fault_iff_raises hf .stackOverflow nofun).trans raises_stackOverflow_iff,
      (h.fault_iff_raises hf .memBounds nofun).trans raises_memBounds_iff,
      (h.fault_iff_raises hf .storeProtect nofun).trans raises_storeProtect_iff,
      h.faultEntry hf⟩
  case fetch =>
    exact ⟨_, step_fetchFault hes hlt hb, rfl, rfl, rfl,
      ((s.onlyChanges_emit none).trans (State.onlyChanges_raise _ _)).mono (by decide)⟩

/-- Settles O6: `setKey` replaces one entry of the key vector, `clearDirty` one field. -/
theorem keypadAndDisplayPorts : Obligations.KeypadAndDisplayPorts := by
  refine fun s => ⟨fun k b => ⟨?pressed, fun j hj => ?others, s.onlyChanges_setKey k b⟩, rfl, s.onlyChanges_clearDirty⟩
  case pressed => rw [State.key_setKey, if_pos rfl]
  case others => rw [State.key_setKey, if_neg hj.symm]

end Sys2Proof.Machine

namespace Sys2Proof.Machine

/-! ### Loading a program (R292 to R294) -/

section LoadProgram

variable {s : State} {bytes : List Byte}

/-- The state a load that succeeds leaves (R292). -/
def State.withProgram (s : State) (bytes : List Byte) : State :=
  { s.storeBytes 0x200 bytes with progEnd := BitVec.ofNat 16 (0x200 + bytes.length) }

theorem State.loadProgram_of_fits (hes : s.es = .ready) (hfit : bytes.length ≤ maxRom) :
    s.loadProgram bytes = .next (s.withProgram bytes, .success) := by
  unfold State.loadProgram
  rw [hes]
  exact if_pos hfit

theorem State.loadProgram_of_tooLong (hes : s.es = .ready) (hlong : maxRom < bytes.length) :
    s.loadProgram bytes = .next (s, .tooLong) := by
  unfold State.loadProgram
  rw [hes]
  exact if_neg (Nat.not_le_of_lt hlong)

theorem State.loadProgram_of_not_ready (hes : s.es ≠ .ready) : s.loadProgram bytes = .refused .loadNotReady := by
  unfold State.loadProgram
  cases h : s.es
  case ready => exact absurd h hes
  all_goals rfl

/-- In `Ready` a load is answered, whatever its length (R292, R293). -/
theorem State.loadProgram_ne_refused (hes : s.es = .ready) (r : Refusal) : s.loadProgram bytes ≠ .refused r := by
  obtain hlong | hfit := Nat.lt_or_ge maxRom bytes.length
  · rw [State.loadProgram_of_tooLong hes hlong]
    nofun
  · rw [State.loadProgram_of_fits hes hfit]
    nofun

/-- The end of a program that fits is at most 0x1000, so the 16 bits of `PROG_END` hold it (R38). -/
theorem State.progEnd_withProgram (hfit : bytes.length ≤ maxRom) :
    (s.withProgram bytes).progEnd.toNat = 0x200 + bytes.length := by
  have hend : 0x200 + bytes.length ≤ 0x1000 := Nat.add_le_add_left hfit 0x200
  exact Nat.mod_eq_of_lt (by omega)

theorem State.onlyChanges_withProgram (s : State) (bytes : List Byte) :
    OnlyChanges [.mem, .progEnd] s (s.withProgram bytes) := by
  intro p hp
  cases p
  case mem | progEnd => exact absurd hp (by decide)
  case v | stack | keys => exact fun _ => rfl
  case fb => exact fun _ _ => rfl
  all_goals rfl

end LoadProgram

/-! ### The statements -/

/-- Settles O4: `PROG_END` apart, a load that fits is a store of the program at 0x200. -/
theorem loadProgramCopiesVerbatim : Obligations.LoadProgramCopiesVerbatim := by
  refine fun s bytes hes => ⟨fun hfit => ?fits, State.loadProgram_of_tooLong hes⟩
  case fits =>
    exact ⟨s.withProgram bytes, State.loadProgram_of_fits hes hfit,
      fun _ hk => State.readByte_storeBytes_inside (s := s) hk, s.bytesOutside_storeBytes 0x200 rfl,
      State.progEnd_withProgram hfit, s.onlyChanges_withProgram bytes⟩

/-- Settles O5: outside `Ready` a load is refused; in `Ready` it succeeds or is too long. -/
theorem loadProgramOnlyWhileReady : Obligations.LoadProgramOnlyWhileReady :=
  fun _ _ => ⟨State.loadProgram_of_not_ready, fun h hes => State.loadProgram_ne_refused hes .loadNotReady h⟩

/-- Settles O7 from O4: a load keeps the `PC` and the `ES` of the reset state, and the program's first two bytes stand
at that `PC`. -/
theorem bootFetchesFirstWord : Obligations.BootFetchesFirstWord := by
  intro straps b0 b1 rest hlen
  obtain ⟨t, hload, hbytes, -, hend, hframe⟩ :=
    (loadProgramCopiesVerbatim (State.resetWith straps) (b0 :: b1 :: rest) rfl).1 (Nat.add_le_add_right hlen 2)
  have hes : t.es = .ready := hframe .es (by decide)
  have hpc : t.pc = 0x200 := hframe .pc (by decide)
  have hword : t.wordAtPc = wordOfBytes b0 b1 := by
    rw [State.wordAtPc, hpc]
    exact congrArg₂ wordOfBytes (hbytes 0 (Nat.zero_lt_succ _)) (hbytes 1 (Nat.succ_lt_succ (Nat.zero_lt_succ _)))
  have hfetches : t.fetches := by
    refine ⟨.inl hes, ?_, ?_⟩
    · rw [hpc, hend]
      exact Nat.lt_add_of_pos_right (Nat.zero_lt_succ _)
    · rw [hpc]
      decide
  exact ⟨t, hload, hes, hfetches, hword, hword ▸ wordOfBytes_toNat b0 b1⟩

end Sys2Proof.Machine
